-- ==== Sys2Proof/Word.lean ====
section
/-! DEFINITION. The widths of the machine's words (00_scope.md R5, R6, R8) and the three-fold index that the
channels, the window rows and the window columns share (R9). -/

namespace Sys2Proof

/-- A sample: an unsigned 8-bit channel value (R5, R71). -/
abbrev Sample := BitVec 8

/-- A 16-bit coordinate or count register (R6: DIM_BITS = 16). -/
abbrev Coord := BitVec 16

/-- A 12-bit accumulator register (R57). -/
abbrev Acc := BitVec 12

/-- A 32-bit host register (R30). -/
abbrev Word := BitVec 32

/-- The 34-bit address field of a host transaction (R101). -/
abbrev Addr := BitVec 34

/-- A work descriptor, format D (R104). -/
abbrev Descriptor := BitVec 64

/-- A host transaction request, format H (R101). -/
abbrev Request := BitVec 72

/-- A micro-operation code, format U (R107). -/
abbrev UopCode := BitVec 4

/-- Three values of one kind, indexed 0, 1, 2: the channels `c`, the window rows `r` or columns `j` (R9). -/
structure Tri (α : Type) where
  i0 : α
  i1 : α
  i2 : α
deriving DecidableEq, Repr

/-- The value at an index. -/
def Tri.get {α : Type} (t : Tri α) : Fin 3 → α
  | 0 => t.i0
  | 1 => t.i1
  | 2 => t.i2

/-- The three values of a function of the index. -/
def Tri.of {α : Type} (f : Fin 3 → α) : Tri α := ⟨f 0, f 1, f 2⟩

/-- The same value three times. -/
def Tri.const {α : Type} (a : α) : Tri α := ⟨a, a, a⟩

/-- The 3 by 3 by 3 array of window registers, read `WIN[r][j][c]` (R9, R55). -/
abbrev Window := Tri (Tri (Tri Sample))

/-- `WIN[r][j][c]` (R55). -/
def Window.at (w : Window) (r j c : Fin 3) : Sample := ((w.get r).get j).get c

end Sys2Proof
end

