-- ==== Sys2Proof/Syntax.lean ====
section
/-! DEFINITION. The operations of the hardware, one constructor per row of spec/opcode_table.json
(30_encoding.md R100, R102, R104, R107), and the three interfaces a word can travel on (R100). -/

namespace Sys2Proof

/-- The eighteen operations. A field the spec says is ignored (wdata of a read, wdata[31:1] of START) is no
operand; format U has no operand field: its operands are registers of the executing lane (R107). -/
inductive Instr where
  /-- REGRD: read the register at a byte offset (R153). -/
  | regrd (addr : Addr)
  /-- REGWR: write a value to the register at a byte offset (R154). -/
  | regwr (addr : Addr) (value : Word)
  /-- SAMPRD.I: read a sample of IMEM (R155). -/
  | samprdI (index : Addr)
  /-- SAMPWR.I: write bits 7:0 of a value to a sample of IMEM (R156). -/
  | sampwrI (index : Addr) (value : Word)
  /-- SAMPRD.O: read a sample of OMEM (R157). -/
  | samprdO (index : Addr)
  /-- SAMPWR.O: always refused with ERR (R158). -/
  | sampwrO (index : Addr) (value : Word)
  /-- ACK: clear the W1C bits of STATUS that the mask names (R159). -/
  | ack (mask : Word)
  /-- START: start a run (R160). -/
  | start
  /-- DISPATCH.CONV: hand a convolution item to an idle lane (R175, R176). -/
  | dispatchConv (y x0 n : Coord)
  /-- DISPATCH.PASS: hand a passthrough item to an idle lane (R175, R177). -/
  | dispatchPass (y x0 n : Coord)
  /-- LDESC: unpack the descriptor register (R193). -/
  | ldesc
  /-- WSHIFT: shift the window and load a column (R198). -/
  | wshift
  /-- ACC.AVG: form the nine-sample sums (R211). -/
  | accAvg
  /-- ACC.SOB: form the two Sobel sums (R212). -/
  | accSob
  /-- EMIT.AVG: write an averaged pixel (R232). -/
  | emitAvg
  /-- EMIT.SOB: write a gradient-magnitude pixel (R233). -/
  | emitSob
  /-- PASS: copy a pixel (R246). -/
  | pass
  /-- RETIRE: end of the item (R199). -/
  | retire
deriving DecidableEq, Repr

/-- A word on one of the three interfaces. The interface gives the format: no word has to be told apart from a
word of another format (R100). -/
inductive BusWord where
  /-- Format H, host to host interface, 72 bits (R101). -/
  | h (w : Request)
  /-- Format D, scheduler to lane, 64 bits (R104). -/
  | d (w : Descriptor)
  /-- Format U, sequencer to datapath, 4 bits (R107). -/
  | u (w : UopCode)
deriving DecidableEq, Repr

end Sys2Proof
end

