-- ==== Sys2Proof/WellFormed.lean ====
section
/-! DEFINITION. Which terms of `Instr` are the named operation of a word: START and ACK are special cases of
REGWR and are tested before it (30_encoding.md R102). -/

namespace Sys2Proof

/-- A REGWR that R102 names ACK: the register is STATUS, offset 0x04. -/
def isAckForm (addr : Addr) : Bool := addr == 0x04#34

/-- A REGWR that R102 names START: the register is CTRL, offset 0x00, and bit 0 of the value is 1. -/
def isStartForm (addr : Addr) (value : Word) : Bool := addr == 0x00#34 && value.getLsbD 0

/-- A term is well formed when it is the name that R102 gives its words. Every other operand of every operation
may take any value of its field (R110, R111). -/
def Instr.wf : Instr → Bool
  | .regwr addr value => !isAckForm addr && !isStartForm addr value
  | .regrd _ => true
  | .samprdI _ => true
  | .sampwrI _ _ => true
  | .samprdO _ => true
  | .sampwrO _ _ => true
  | .ack _ => true
  | .start => true
  | .dispatchConv _ _ _ => true
  | .dispatchPass _ _ _ => true
  | .ldesc => true
  | .wshift => true
  | .accAvg => true
  | .accSob => true
  | .emitAvg => true
  | .emitSob => true
  | .pass => true
  | .retire => true

end Sys2Proof
end

