-- ==== Sys2Proof/Decode.lean ====
section
/-! DEFINITION. The decoders of the three formats, total on every word, and the encoder (30_encoding.md R101,
R102, R104, R107, R110, R111). No field is sign-extended, scaled or shifted (R110). -/

namespace Sys2Proof

/-- Selection of the host operation from a format H word (R101, R102): `space` 71:70, `we` 69, `zero` 68:66,
`addr` 65:32, `wdata` 31:0. A reserved word (`space = 3` or `zero ≠ 0`, R111) is no operation. -/
def decodeHost (w : Request) : Option Instr :=
  let space := w.extractLsb' 70 2
  let we := w.getLsbD 69
  let addr : Addr := w.extractLsb' 32 34
  let wdata : Word := w.extractLsb' 0 32
  if w.extractLsb' 66 3 ≠ 0#3 then none
  else if space = 0#2 then
    if !we then some (.regrd addr)
    else if isAckForm addr then some (.ack wdata)
    else if isStartForm addr wdata then some .start
    else some (.regwr addr wdata)
  else if space = 1#2 then
    if !we then some (.samprdI addr) else some (.sampwrI addr wdata)
  else if space = 2#2 then
    if !we then some (.samprdO addr) else some (.sampwrO addr wdata)
  else none

/-- The `kind` field 63:62 of a descriptor (R104). -/
def descKind (w : Descriptor) : BitVec 2 := w.extractLsb' 62 2

/-- The `zero` field 61:48 of a descriptor (R104). -/
def descZero (w : Descriptor) : BitVec 14 := w.extractLsb' 48 14

/-- The `y` field 47:32 of a descriptor (R104). -/
def descY (w : Descriptor) : Coord := w.extractLsb' 32 16

/-- The `x0` field 31:16 of a descriptor (R104). -/
def descX0 (w : Descriptor) : Coord := w.extractLsb' 16 16

/-- The `n` field 15:0 of a descriptor (R104). -/
def descN (w : Descriptor) : Coord := w.extractLsb' 0 16

/-- A format D word: `kind` 1 is DISPATCH.CONV, 2 is DISPATCH.PASS; 0, 3 and a non-zero `zero` field are illegal
(R104, R111). -/
def decodeDesc (w : Descriptor) : Option Instr :=
  if descZero w ≠ 0#14 then none
  else if descKind w = 1#2 then some (.dispatchConv (descY w) (descX0 w) (descN w))
  else if descKind w = 2#2 then some (.dispatchPass (descY w) (descX0 w) (descN w))
  else none

/-- A format U code (R107); 0 and 9 to 15 are illegal (R111). -/
def decodeUop (w : UopCode) : Option Instr :=
  match w.toNat with
  | 1 => some .ldesc
  | 2 => some .wshift
  | 3 => some .accAvg
  | 4 => some .accSob
  | 5 => some .emitAvg
  | 6 => some .emitSob
  | 7 => some .pass
  | 8 => some .retire
  | _ => none

/-- The decoder: the interface gives the format (R100). -/
def decode : BusWord → Option Instr
  | .h w => decodeHost w
  | .d w => decodeDesc w
  | .u w => decodeUop w

/-- A format H word from its fields (R101). -/
def hostWord (space : BitVec 2) (we : BitVec 1) (addr : Addr) (wdata : Word) : Request :=
  space ++ we ++ 0#3 ++ addr ++ wdata

/-- A format D word from its fields (R104). -/
def descWord (kind : BitVec 2) (y x0 n : Coord) : Descriptor :=
  kind ++ 0#14 ++ y ++ x0 ++ n

/-- The encoder: the word of an operation, ignored fields 0 (R101, R102, R104, R107). -/
def encode : Instr → BusWord
  | .regrd addr => .h (hostWord 0 0 addr 0)
  | .regwr addr value => .h (hostWord 0 1 addr value)
  | .samprdI index => .h (hostWord 1 0 index 0)
  | .sampwrI index value => .h (hostWord 1 1 index value)
  | .samprdO index => .h (hostWord 2 0 index 0)
  | .sampwrO index value => .h (hostWord 2 1 index value)
  | .ack mask => .h (hostWord 0 1 0x04 mask)
  | .start => .h (hostWord 0 1 0x00 1)
  | .dispatchConv y x0 n => .d (descWord 1 y x0 n)
  | .dispatchPass y x0 n => .d (descWord 2 y x0 n)
  | .ldesc => .u 1
  | .wshift => .u 2
  | .accAvg => .u 3
  | .accSob => .u 4
  | .emitAvg => .u 5
  | .emitSob => .u 6
  | .pass => .u 7
  | .retire => .u 8

/-- The bits of a table row as a word on its interface. The three lengths (72, 64 and 4 bits, R100) tell the
formats apart; a 4-bit code stands in the low bits of its byte (log 18). -/
def busWordOf (nbits w : Nat) : BusWord :=
  if nbits ≤ 8 then .u (BitVec.ofNat 4 w)
  else if nbits ≤ 64 then .d (BitVec.ofNat 64 w)
  else .h (BitVec.ofNat 72 w)

/-- The instruction the decoder reads from the bits of a table row. -/
def decodeTableWord (nbits w : Nat) : Option Instr := decode (busWordOf nbits w)

end Sys2Proof
end

