-- ==== Sys2Proof/Config.lean ====
section
/-! DEFINITION. The parameters of an implementation (00_scope.md R6) and the free values: what the spec leaves
unspecified, as constants without a body. -/

namespace Sys2Proof

/-- How the square root becomes an integer (R6, R134): the two values of MAG_ROUND (R109). -/
inductive MagRound where
  /-- TRUNC, 0: the floor of the root. This hardware's value (R134). -/
  | trunc
  /-- NEAREST, 1: the nearest integer to the root. -/
  | nearest
deriving DecidableEq, Repr

/-- The parameters of R6 that a model takes as arguments. No step changes them. -/
structure Config where
  /-- NLANES, the number of lanes. -/
  nlanes : Nat
  /-- MEM_PIXELS, the capacity of each sample memory in pixels. -/
  memPixels : Nat
  /-- MAG_ROUND. -/
  magRound : MagRound
deriving DecidableEq, Repr

/-- The ranges R6 gives: `1 <= NLANES <= 255`, `1 <= MEM_PIXELS <= 2^32 - 1`. -/
abbrev Config.wf (c : Config) : Prop :=
  1 ≤ c.nlanes ∧ c.nlanes ≤ 255 ∧ 1 ≤ c.memPixels ∧ c.memPixels ≤ 4294967295

/-- The parameters `State.reset` is built with: those of the vectors of 95_test_vectors.md. DESIGN CHOICE, log 3,
unsafe for a statement about `State.reset` alone; every other statement is about every configuration. -/
def Config.vectors : Config := ⟨4, 1024, .trunc⟩

/-- FREE VALUE (log 4, safe): what the IMEM cell at an index holds that the host has not written since the reset
with this number (R63, R296). -/
opaque Config.imemUnwritten : Nat → Nat → Sample

/-- FREE VALUE (log 4, safe): what the OMEM cell at an index holds that no lane has written since the reset with
this number (R63, R303). -/
opaque Config.omemUnwritten : Nat → Nat → Sample

/-- FREE VALUE (log 8, safe): what the OMEM cell at an index holds after a fault raised during a run, between the
reset with this number and the next (R267, R303; U3 of 93_implementation_defined.md). -/
opaque Config.omemAfterFault : Nat → Nat → Sample

/-- FREE VALUE (log 7, safe): what a host read of OMEM during a run returns (R157). -/
opaque Config.busyRead : Nat → Sample

/-- FREE VALUE (log 6, safe): how many lanes above one the hardware picks when MODE.PAR = MODE.DYN = 1, before it
is brought into the range of R173. -/
opaque Config.unitsDraw : Nat → Nat

/-- FREE VALUE (log 2, safe): which enabled step the hardware takes next when the agenda says nothing (R7). -/
opaque Config.turnDraw : Nat → Nat

/-- FREE VALUE (log 2, safe): which idle enabled lane a DISPATCH picks when the agenda says nothing (R175). -/
opaque Config.laneDraw : Nat → Nat

end Sys2Proof
end

