-- ==== Sys2Proof/Machine/State.lean ====
section
/-! DEFINITION. The state of the machine (10_state.md R20), as plain data, its reset value (R63), and the reasons
a step can stop. -/

namespace Sys2Proof.Machine

/-- SST, the scheduler state (R44): IDLE 0, RUN 1, FAULT 2. -/
inductive SchedState where
  | idle
  | run
  | fault
deriving DecidableEq, Repr

/-- ST, the lane state (R50, R51): IDLE 0, LOAD 1, RUN 2. -/
inductive LaneState where
  | idle
  | load
  | run
deriving DecidableEq, Repr

/-- KIND of the item in progress (R50, R53): NONE 0, CONV 1, PASS 2. -/
inductive ItemKind where
  | none
  | conv
  | pass
deriving DecidableEq, Repr

/-- AV, what the accumulators hold (R50, R58): NONE 0, AVG 1, SOB 2. -/
inductive AccValid where
  | none
  | avg
  | sob
deriving DecidableEq, Repr

/-- The response code of a host transaction (R101). -/
inductive Resp where
  | ok
  | err
deriving DecidableEq, Repr

/-- The response `(resp, rdata)` of a host transaction (R101, R150). -/
structure Response where
  resp : Resp
  rdata : Word
deriving DecidableEq, Repr

/-- A fault code, held in STATUS.ECODE (R109, R260). -/
inductive FaultCode where
  /-- E_SHAPE, 1: WIDTH = 0 or HEIGHT = 0 at START (R261). -/
  | shape
  /-- E_SIZE, 2: WIDTH * HEIGHT > MEM_PIXELS at START (R262). -/
  | size
  /-- E_BOUNDS, 3: an access outside the image (R263). -/
  | bounds
  /-- E_ILLEGAL, 4: an illegal descriptor, code or lane state (R265). -/
  | illegal
deriving DecidableEq, Repr

/-- A sample memory: the cells written since the last reset, addresses strictly rising. An address that is not
listed has no written value (R63; log 4). -/
abbrev Memory := List Host.Cell

/-- The canonical form: addresses strictly rising. No entry can equal what an unlisted address holds, because an
unlisted address holds no written value. -/
def Memory.wf : Memory → Bool
  | [] => true
  | [_] => true
  | a :: b :: m => decide (a.1 < b.1) && Memory.wf (b :: m)

/-- The host registers (R30 to R40). CTRL stores nothing; CAP and MEMCAP are constants; BUSY and ERR are functions
of SST (R49); reserved bits read 0 and are not held. -/
structure HostRegs where
  width : Coord
  height : Coord
  policy : Word
  /-- MODE.PAR -/
  par : Bool
  /-- MODE.DYN -/
  dyn : Bool
  /-- LANES, the limit N (R37) -/
  lanesLimit : BitVec 8
  chunk : Coord
  units : BitVec 8
  /-- IEN.IE_DONE -/
  ieDone : Bool
  /-- IEN.IE_ERR -/
  ieErr : Bool
  /-- STATUS.DONE -/
  done : Bool
  /-- STATUS.NOPF -/
  nopf : Bool
  /-- STATUS.WDROP -/
  wdrop : Bool
  /-- STATUS.ECODE -/
  ecode : BitVec 4
deriving DecidableEq, Repr

/-- The scheduler state (R44 to R48). -/
structure Sched where
  sst : SchedState
  aw : Coord
  ah : Coord
  apol : Word
  apar : Bool
  achunk : Coord
  u : BitVec 8
  next : Word
  retired : Word
  nitems : Word
deriving DecidableEq, Repr

/-- The registers of one lane (R50). -/
structure Lane where
  st : LaneState
  dreg : Descriptor
  kind : ItemKind
  y : Coord
  x : Coord
  col : Coord
  rem : Coord
  wv : BitVec 2
  win : Window
  av : AccValid
  sum : Tri Acc
  gx : Tri Acc
  gy : Tri Acc
deriving DecidableEq, Repr

/-- A move: one atomic step of one agent (R7), or a word put on an interface, or the reset input (R290). -/
inductive Move where
  /-- The host presents a request word on the host port (R150). -/
  | host (w : Request)
  /-- The reset input is applied (R290). -/
  | reset
  /-- The scheduler takes DISPATCH, picking the idle enabled lane by this choice (R175). -/
  | dispatch (choice : Nat)
  /-- The scheduler takes JOIN (R180). -/
  | join
  /-- Lane `l` takes the step its sequencer selects (R191). -/
  | lane (l : Nat)
  /-- A word is put on the scheduler-to-lane interface (R100, R111; log 12). -/
  | descr (choice : Nat) (w : Descriptor)
  /-- A code is put on the interface of lane `l`'s datapath (R100, R111; log 12). -/
  | uop (l : Nat) (w : UopCode)
deriving DecidableEq, Repr

/-- The MODEL's own fields, no state of the spec's (log 1, log 2, log 19). -/
structure Env where
  /-- The response of the last host transaction; none before the first. -/
  resp : Option Response
  /-- The moves still to be made, the next one first. -/
  agenda : List Move
  /-- The choice made for the move in hand: the acting lane, or which idle lane a DISPATCH picks. -/
  who : Nat
  /-- How many free values have been drawn. -/
  draws : Nat
  /-- How many resets there have been since `State.reset`. -/
  epoch : Nat
deriving DecidableEq, Repr

/-- The machine: the two memories, the host registers, the scheduler and the lanes (R20), the parameters (R6),
and the model's own fields. -/
structure State where
  cfg : Config
  imem : Memory
  omem : Memory
  host : HostRegs
  sched : Sched
  lanes : List Lane
  env : Env
deriving DecidableEq, Repr

/-- Why the machine stops with a fault of the MODEL. The hardware's own four faults (R260) are no stops: they are
fault entry (R266), a next state. -/
inductive Fault where
  /-- Raised by WSHIFT, EMIT.AVG, EMIT.SOB and PASS for an access inside the `AW` by `AH` image to a sample index
  the memory does not have. START refuses such a shape (R73, R262), so no run reaches it. Safe (log 14). -/
  | noSuchCell
deriving DecidableEq, Repr

/-- Why the machine refuses. -/
inductive Refusal where
  /-- Raised by an arm of `exec` whose instruction has no meaning yet; no arm raises it. Safe. -/
  | notModelled (mnemonic : String)
deriving DecidableEq, Repr

/-- The outcome of a step of this machine. -/
abbrev Result := Host.Outcome State Fault Refusal

/-- The host registers after reset (R30, R63): LANES is NLANES, everything else 0. -/
def HostRegs.reset (cfg : Config) : HostRegs where
  width := 0
  height := 0
  policy := 0
  par := false
  dyn := false
  lanesLimit := BitVec.ofNat 8 cfg.nlanes
  chunk := 0
  units := 0
  ieDone := false
  ieErr := false
  done := false
  nopf := false
  wdrop := false
  ecode := 0

/-- The scheduler after reset (R63). -/
def Sched.reset : Sched where
  sst := .idle
  aw := 0
  ah := 0
  apol := 0
  apar := false
  achunk := 0
  u := 0
  next := 0
  retired := 0
  nitems := 0

/-- A lane after reset (R63). ST, AV and WV are the spec's. KIND and REM are those of the rules R63 and R290, NONE
and 0, where U1 of 93_implementation_defined.md lists both among the registers with any value: the model's choice of
the rules over U1 (DEDUCED, log 24, unsafe). DREG, Y, X, COL, WIN, SUM, GX and GY are unspecified there and 0 here:
DESIGN CHOICE, log 5, unsafe. -/
def Lane.reset : Lane where
  st := .idle
  dreg := 0
  kind := .none
  y := 0
  x := 0
  col := 0
  rem := 0
  wv := 0
  win := .const (.const (.const 0))
  av := .none
  sum := .const 0
  gx := .const 0
  gy := .const 0

/-- The machine after reset, for given parameters and fields of the model's own (R63): both memories without a
written cell, `NLANES` lanes. -/
def State.resetWith (cfg : Config) (env : Env) : State where
  cfg := cfg
  imem := []
  omem := []
  host := .reset cfg
  sched := .reset
  lanes := List.replicate cfg.nlanes .reset
  env := env

/-- The model's own fields at `State.reset`: DESIGN CHOICE, log 19. -/
def Env.init : Env := ⟨none, [], 0, 0, 0⟩

/-- The machine right after reset (R63, R290), with the parameters of log 3. -/
def State.reset : State := .resetWith .vectors .init

end Sys2Proof.Machine
end

