-- ==== Sys2Proof/Machine/Ops.lean ====
section
/-! DEFINITION. The named operations over memory, registers and lanes, fault entry (60_exceptions.md R266), the
response of a host transaction (30_encoding.md R101) and reset (70_reset_and_hazards.md R290). -/

namespace Sys2Proof.Machine

/-! ## Sample memories -/

/-- The value written to a cell since the last reset, if there is one. -/
def memGet : Memory → Nat → Option Sample
  | [], _ => none
  | (b, v) :: m, a => if a = b then some v else memGet m a

/-- Write a cell, keeping the addresses strictly rising. -/
def memPut : Memory → Nat → Sample → Memory
  | [], a, v => [(a, v)]
  | (b, w) :: m, a, v =>
    if a < b then (a, v) :: (b, w) :: m
    else if a = b then (a, v) :: m
    else (b, w) :: memPut m a v

/-- How many samples each memory holds: `3*MEM_PIXELS` (R21, R22). -/
def cellCount (cfg : Config) : Nat := 3 * cfg.memPixels

/-- `MemRead(IMEM, i, 1)` (R10, R21). A cell not written since reset holds an unspecified value, the same at every
read (R77, R296; log 4). -/
def imemRead (s : State) (i : Nat) : Sample :=
  (memGet s.imem i).getD (Config.imemUnwritten s.env.epoch i)

/-- A fault has been raised during a run: E_BOUNDS, 3, and E_ILLEGAL, 4, are raised by lanes only (R260, R267). -/
def midRunFault (s : State) : Bool :=
  decide (s.sched.sst = .fault) && (s.host.ecode == 3#4 || s.host.ecode == 4#4)

/-- `MemRead(OMEM, i, 1)` (R10, R22, R303; log 4). After a fault raised during a run every cell holds an unspecified
value, written or not, the same at every read until reset (R267, R303; log 8). -/
def omemRead (s : State) (i : Nat) : Sample :=
  if midRunFault s then Config.omemAfterFault s.env.epoch i
  else (memGet s.omem i).getD (Config.omemUnwritten s.env.epoch i)

/-- `MemWrite(IMEM, i, 1, v)` (R10, R156). -/
def imemWrite (s : State) (i : Nat) (v : Sample) : State :=
  { s with imem := memPut s.imem i v }

/-- `MemWrite(OMEM, 3*p + c, 1, v[c])` for the three channels `c` of pixel number `p` (R72, R232, R233, R246). -/
def omemWritePixel (s : State) (p : Nat) (v : Tri Sample) : State :=
  { s with omem := memPut (memPut (memPut s.omem (3 * p) v.i0) (3 * p + 1) v.i1) (3 * p + 2) v.i2 }

/-! ## The response of a host transaction -/

/-- `(resp, rdata) <- (OK, v)` (R150). -/
def respondOk (v : Word) (s : State) : State :=
  { s with env := { s.env with resp := some ⟨.ok, v⟩ } }

/-- `(resp, rdata) <- (ERR, 0)` and no other change (R152). -/
def respondErr (s : State) : State :=
  { s with env := { s.env with resp := some ⟨.err, 0⟩ } }

/-- A free value has been drawn: the next draw is another one. -/
def drawn (s : State) : State :=
  { s with env := { s.env with draws := s.env.draws + 1 } }

/-! ## Fault entry and reset -/

/-- The number of a fault code (R260). -/
def faultNumber : FaultCode → BitVec 4
  | .shape => 1
  | .size => 2
  | .bounds => 3
  | .illegal => 4

/-- `raise Fault(code)` (R266), applied to the state before the raising step: the first fault sets ECODE and
`SST <- FAULT`; in `SST = FAULT` nothing changes (R268). There is no return from a fault other than reset. The list of the cells that
lanes have written stays as it is (R266); what OMEM is worth after a fault raised during a run is `omemRead`'s (log 8).
-/
def raiseFault (code : FaultCode) (s : State) : State :=
  if s.sched.sst = .fault then s
  else { s with host := { s.host with ecode := faultNumber code }, sched := { s.sched with sst := .fault } }

/-- Reset (R290): whatever the state before, the state after is that of R63. The memories lose their content: what
an unwritten cell holds is drawn anew (log 4). The moves still to be made stay the environment's. -/
def applyReset (s : State) : State :=
  .resetWith s.cfg { s.env with resp := none, who := 0, epoch := s.env.epoch + 1 }

/-! ## Lanes -/

/-- Lane `l` with new registers. -/
def setLane (s : State) (l : Nat) (L : Lane) : State :=
  { s with lanes := s.lanes.set l L }

/-- The step of the acting lane (R190): taken only while `SST = RUN`, by a lane that exists (log 10). -/
def laneStep (f : Lane → Result) (s : State) : Result :=
  if s.sched.sst = .run then
    match s.lanes[s.env.who]? with
    | some L => f L
    | none => .next s
  else .next s

/-- `X <- X + 1`, `REM <- REM - 1`, `AV <- NONE`: the advance of EMIT.AVG and EMIT.SOB (R232, R233). -/
def emitAdvance (L : Lane) : Lane :=
  { L with x := L.x + 1, rem := L.rem - 1, av := .none }

/-- `X <- X + 1`, `REM <- REM - 1`: the advance of PASS (R246). -/
def passAdvance (L : Lane) : Lane :=
  { L with x := L.x + 1, rem := L.rem - 1 }

end Sys2Proof.Machine
end

