-- ==== Sys2Proof/Machine/Operands.lean ====
section
/-! DEFINITION. The operand forms: register offsets, sample indices, pixel numbers, the descriptor of an item and
the fields LDESC takes from one (10_state.md R30, R43; 20_memory.md R72; 30_encoding.md R104, R109). -/

namespace Sys2Proof.Machine

/-- The twelve host registers (R30). -/
inductive Reg where
  | ctrl | status | width | height | policy | mode | lanes | chunk | units | ien | cap | memcap
deriving DecidableEq, Repr

/-- The register at a byte offset (R30); none for an offset above 0x2C or not a multiple of 4 (R43, R152). -/
def regOfOffset (a : Addr) : Option Reg :=
  match a.toNat with
  | 0x00 => some .ctrl
  | 0x04 => some .status
  | 0x08 => some .width
  | 0x0C => some .height
  | 0x10 => some .policy
  | 0x14 => some .mode
  | 0x18 => some .lanes
  | 0x1C => some .chunk
  | 0x20 => some .units
  | 0x24 => some .ien
  | 0x28 => some .cap
  | 0x2C => some .memcap
  | _ => none

/-- The byte offset of a register (R30). -/
def regOffset : Reg → Nat
  | .ctrl => 0x00
  | .status => 0x04
  | .width => 0x08
  | .height => 0x0C
  | .policy => 0x10
  | .mode => 0x14
  | .lanes => 0x18
  | .chunk => 0x1C
  | .units => 0x20
  | .ien => 0x24
  | .cap => 0x28
  | .memcap => 0x2C

/-- A sample index names a cell (R152): `addr < 3*MEM_PIXELS`. -/
def cellExists (s : State) (i : Addr) : Bool := decide (i.toNat < cellCount s.cfg)

/-- The sample in bits 7:0 of a written value (R101, R156). -/
def sampleOf (v : Word) : Sample := v.extractLsb' 0 8

/-- The number of pixel `(x, y)` in the active shape: its channel `c` is the sample at `3*(y*AW + x) + c` (R72). -/
def pixelNumber (s : State) (x y : Nat) : Nat := y * s.sched.aw.toNat + x

/-- The three samples of a pixel number are cells of the memories (R73). -/
def pixelExists (s : State) (p : Nat) : Bool := decide (p < s.cfg.memPixels)

/-- The three samples of pixel number `p` in IMEM (R72). -/
def imemPixel (s : State) (p : Nat) : Tri Sample :=
  .of fun c => imemRead s (3 * p + c.val)

/-- The `kind` field as KIND (R109); 0 and 3 name no item kind. -/
def kindOfField (k : BitVec 2) : Option ItemKind :=
  if k = 1#2 then some .conv else if k = 2#2 then some .pass else none

/-- A window column that is valid: `j >= 3 - WV` (R56). -/
def columnValid (L : Lane) (j : Fin 3) : Bool := decide (3 ≤ j.val + L.wv.toNat)

/-- The value a window register holds; a register in a column that is not valid holds no value (R56, log 13). -/
def windowValue (L : Lane) (r j c : Fin 3) : Option Sample :=
  if columnValid L j then some (L.win.at r j c) else none

/-- The window when all 27 registers hold values, `WV = 3` (R56). -/
def fullWindow (L : Lane) : Option Window :=
  if L.wv = 3#2 then some L.win else none

/-- `COL = X + 2`, compared on integers without wrap (R191): with `WV = 3`, the window is centred (R196). -/
def colAtCentre (L : Lane) : Bool := decide (L.col.toNat = L.x.toNat + 2)

end Sys2Proof.Machine
end

