-- ==== Sys2Proof/Machine/Flags.lean ====
section
/-! DEFINITION. The status flags (10_state.md R32, R49), the words the host reads (R36, R40 to R42, R153), the
interrupt output (R61, R270) and the W1C bits (41_host_commands.md R159). There are no arithmetic condition codes
(R49). -/

namespace Sys2Proof.Machine

/-- STATUS.BUSY is 1 exactly when `SST = RUN` (R32, R44). -/
def busy (s : State) : Bool := decide (s.sched.sst = .run)

/-- STATUS.ERR is 1 exactly when `SST = FAULT` (R32, R44). -/
def err (s : State) : Bool := decide (s.sched.sst = .fault)

/-- The STATUS word, `{0[31:12], ECODE, 0[7:5], WDROP, NOPF, ERR, DONE, BUSY}` (R32, R153). -/
def statusWord (s : State) : Word :=
  0#20 ++ s.host.ecode ++ 0#3 ++ BitVec.ofBool s.host.wdrop ++ BitVec.ofBool s.host.nopf ++ BitVec.ofBool (err s)
    ++ BitVec.ofBool s.host.done ++ BitVec.ofBool (busy s)

/-- The MODE word: PAR bit 0, DYN bit 1 (R36). -/
def modeWord (s : State) : Word :=
  0#30 ++ BitVec.ofBool s.host.dyn ++ BitVec.ofBool s.host.par

/-- The IEN word: IE_DONE bit 0, IE_ERR bit 1 (R40). -/
def ienWord (s : State) : Word :=
  0#30 ++ BitVec.ofBool s.host.ieErr ++ BitVec.ofBool s.host.ieDone

/-- The number of a rounding mode in CAP (R41, R109). -/
def magRoundField : MagRound → BitVec 2
  | .trunc => 0
  | .nearest => 1

/-- The CAP word: NLANES in 7:0, DIM_BITS = 16 in 15:8, MAG_ROUND in 17:16 (R41). -/
def capWord (s : State) : Word :=
  0#14 ++ magRoundField s.cfg.magRound ++ 16#8 ++ BitVec.ofNat 8 s.cfg.nlanes

/-- The MEMCAP word (R42). -/
def memcapWord (s : State) : Word := BitVec.ofNat 32 s.cfg.memPixels

/-- `value(reg)` of a register read (R153): a stored value zero-extended, CTRL 0, CAP and MEMCAP constant. -/
def regValue (s : State) : Reg → Word
  | .ctrl => 0
  | .status => statusWord s
  | .width => s.host.width.setWidth 32
  | .height => s.host.height.setWidth 32
  | .policy => s.host.policy
  | .mode => modeWord s
  | .lanes => s.host.lanesLimit.setWidth 32
  | .chunk => s.host.chunk.setWidth 32
  | .units => s.host.units.setWidth 32
  | .ien => ienWord s
  | .cap => capWord s
  | .memcap => memcapWord s

/-- The interrupt output: `(DONE and IE_DONE) or (ERR and IE_ERR)`, level sensitive (R61, R270). No rule reads it
(R271). DEDUCED, unsafe (log 25): the enables are IEN as it stands, not as it stood at the last START (R81). -/
def irq (s : State) : Bool := (s.host.done && s.host.ieDone) || (err s && s.host.ieErr)

/-- The ACK effects: a written 1 clears DONE (bit 1), WDROP (bit 4); every other bit is ignored (R32, R159). -/
def ackEffects (mask : Word) (s : State) : State :=
  { s with host := { s.host with
      done := s.host.done && !mask.getLsbD 1
      wdrop := s.host.wdrop && !mask.getLsbD 4 } }

/-- `STATUS.WDROP <- 1` (R156, R160). -/
def setWdrop (s : State) : State := { s with host := { s.host with wdrop := true } }

/-- The policy is one of the two filters, 1 Average or 2 Sobel (R35). -/
def isFilter (policy : Word) : Bool := policy == 1#32 || policy == 2#32

end Sys2Proof.Machine
end

