-- ==== Sys2Proof/Machine/Scheduler.lean ====
section
/-! DEFINITION. The decomposition scheduler (42_scheduler.md): the item list, `nitems`, `units`, DISPATCH and
JOIN. -/

namespace Sys2Proof.Machine

/-- A work item `(kind, y, x0, n)` (R171): `conv` tells CONV from PASS. -/
structure Item where
  conv : Bool
  y : Nat
  x0 : Nat
  n : Nat
deriving DecidableEq, Repr

/-- The loop of R171 that cuts a segment of `len` pixels from the left into chunks of at most `step` pixels, from
offset `off` on. Every turn covers at least one pixel, so `fuel = len` turns are enough. -/
def cutSegment (conv : Bool) (y a len step : Nat) : (fuel off : Nat) → List Item
  | 0, _ => []
  | fuel + 1, off =>
    if off < len then
      let n := min step (len - off)
      ⟨conv, y, a + off, n⟩ :: cutSegment conv y a len step fuel (off + n)
    else []

/-- The chunks of one segment (R171): `step = len if ACHUNK = 0 else ACHUNK`. -/
def segmentItems (achunk y : Nat) (seg : Bool × Nat × Nat) : List Item :=
  let len := seg.2.2
  cutSegment seg.1 y seg.2.1 len (if achunk = 0 then len else achunk) len 0

/-- Nothing is to be filtered (R171): the policy is no filter, or the image has no interior. -/
def passAll (aw ah : Nat) (apol : Word) : Bool :=
  !isFilter apol || decide (aw < 3) || decide (ah < 3)

/-- The segments of row `y`, left to right: `(is CONV, first column, length)` (R171). -/
def rowSegments (aw ah : Nat) (apol : Word) (y : Nat) : List (Bool × Nat × Nat) :=
  if passAll aw ah apol || y == 0 || y == ah - 1 then [(false, 0, aw)]
  else [(false, 0, 1), (true, 1, aw - 2), (false, aw - 1, 1)]

/-- The items of row `y` (R171). -/
def rowItems (aw ah : Nat) (apol : Word) (achunk y : Nat) : List Item :=
  (rowSegments aw ah apol y).flatMap (segmentItems achunk y)

/-- The item list `items(AW, AH, APOL, ACHUNK)`, rows from top to bottom (R171). -/
def items (aw ah : Nat) (apol : Word) (achunk : Nat) : List Item :=
  (List.range ah).flatMap (rowItems aw ah apol achunk)

/-- `ch(len)`: how many chunks a segment of `len >= 1` pixels is cut into (R172). -/
def chunkCount (achunk len : Nat) : Nat :=
  if achunk = 0 then 1 else (len + achunk - 1) / achunk

/-- `nitems(AW, AH, APOL, ACHUNK)`, the length of the item list, by the formula of R172. -/
def nitems (aw ah : Nat) (apol : Word) (achunk : Nat) : Nat :=
  if passAll aw ah apol then ah * chunkCount achunk aw
  else 2 * chunkCount achunk aw + (ah - 2) * (2 + chunkCount achunk (aw - 2))

/-- `Umax = min(max(N, 1), NLANES)` (R37, R173). -/
def unitsMax (nlanes n : Nat) : Nat := min (max n 1) nlanes

/-- `units(PAR, DYN, N)` (R173); `draw` is the hardware's choice when DYN picks, brought into `1 .. Umax`. -/
def units (par dyn : Bool) (nlanes n draw : Nat) : Nat :=
  if !par then 1
  else if !dyn then unitsMax nlanes n
  else 1 + draw % unitsMax nlanes n

/-- The item list of the run in progress: a function of the latched configuration (R45, R62, R171). -/
def runItems (s : State) : List Item :=
  items s.sched.aw.toNat s.sched.ah.toNat s.sched.apol s.sched.achunk.toNat

/-- `item(NEXT)` (R171, R175). -/
def nextItem? (s : State) : Option Item := (runItems s)[s.sched.next.toNat]?

/-- The descriptor of an item, `{ kind[1:0], 0[13:0], y[15:0], x0[15:0], n[15:0] }` with CONV 1, PASS 2 (R175). -/
def itemWord (it : Item) : Descriptor :=
  descWord (if it.conv then 1 else 2) (BitVec.ofNat 16 it.y) (BitVec.ofNat 16 it.x0) (BitVec.ofNat 16 it.n)

/-- The state `ST` of lane `l` is IDLE. -/
def laneIdle (s : State) (l : Nat) : Bool :=
  match s.lanes[l]? with
  | some L => decide (L.st = .idle)
  | none => false

/-- The enabled lanes `l < U` with `ST = IDLE`, in index order (R175). -/
def idleLanes (s : State) : List Nat :=
  (List.range s.sched.u.toNat).filter (laneIdle s)

/-- The guard of DISPATCH (R175): `SST = RUN`, `NEXT < NITEMS`, and some enabled lane is idle. -/
def dispatchReady (s : State) : Bool :=
  decide (s.sched.sst = .run) && decide (s.sched.next < s.sched.nitems) && !(idleLanes s).isEmpty

/-- Which idle enabled lane receives the item: any, by the choice made for the move in hand (R175, log 2). -/
def pickedLane? (s : State) : Option Nat :=
  (idleLanes s)[s.env.who % (idleLanes s).length]?

/-- The step of DISPATCH (R175) for the descriptor on the scheduler-to-lane interface: `DREG <- w`, `ST <- LOAD`,
`NEXT <- NEXT + 1`. Where the guard does not hold no such step is taken (log 10). -/
def deliver (w : Descriptor) (s : State) : Result :=
  if dispatchReady s then
    match pickedLane? s with
    | some l =>
      match s.lanes[l]? with
      | some L =>
        .next { setLane s l { L with dreg := w, st := .load } with
          sched := { s.sched with next := s.sched.next + 1 } }
      | none => .next s
    | none => .next s
  else .next s

/-- DISPATCH.CONV: R175 with `kind = 1` (R176). -/
def execDispatchConv (y x0 n : Coord) (s : State) : Result := deliver (descWord 1 y x0 n) s

/-- DISPATCH.PASS: R175 with `kind = 2` (R177). -/
def execDispatchPass (y x0 n : Coord) (s : State) : Result := deliver (descWord 2 y x0 n) s

/-- The guard of JOIN (R180): `SST = RUN`, `NEXT = NITEMS`, `RETIRED = NITEMS`. -/
def joinReady (s : State) : Bool :=
  decide (s.sched.sst = .run) && decide (s.sched.next = s.sched.nitems)
    && decide (s.sched.retired = s.sched.nitems)

/-- JOIN (R180): `SST <- IDLE`, `STATUS.DONE <- 1`, `UNITS <- U`. Where the guard does not hold no such step is
taken. OMEM is not copied back to IMEM (R304). -/
def joinStep (s : State) : State :=
  if joinReady s then
    { s with
      host := { s.host with done := true, units := s.sched.u }
      sched := { s.sched with sst := .idle } }
  else s

end Sys2Proof.Machine
end

