-- ==== Sys2Proof/Machine/HostCommands.lean ====
section
/-! DEFINITION. The host operations (41_host_commands.md): REGRD, REGWR, SAMPRD.I, SAMPWR.I, SAMPRD.O, SAMPWR.O,
ACK, START. Each is one atomic step and is allowed in every SST (R150). -/

namespace Sys2Proof.Machine

/-- The shape check of START (R160, R261, R262, R264): E_SHAPE first, E_SIZE only for non-zero dimensions; the
product is formed exactly. -/
def startFault? (s : State) : Option FaultCode :=
  if s.host.width = 0 ∨ s.host.height = 0 then some .shape
  else if s.cfg.memPixels < s.host.width.toNat * s.host.height.toNat then some .size
  else none

/-- What an accepted START writes (R160): the latched configuration, the cursors and the flags. -/
def startRun (s : State) : State :=
  let h := s.host
  { drawn s with
    host := { h with done := false, nopf := !isFilter h.policy, units := 0 }
    sched := {
      sst := .run
      aw := h.width
      ah := h.height
      apol := h.policy
      apar := h.par
      achunk := h.chunk
      u := BitVec.ofNat 8
        (units h.par h.dyn s.cfg.nlanes h.lanesLimit.toNat (Config.unitsDraw s.env.draws))
      next := 0
      retired := 0
      nitems := BitVec.ofNat 32 (nitems h.width.toNat h.height.toNat h.policy h.chunk.toNat) } }

/-- The START effects (R160): ignored in FAULT, dropped with WDROP in RUN; in IDLE a fault or an accepted START. -/
def startEffects (s : State) : State :=
  match s.sched.sst with
  | .fault => s
  | .run => setWdrop s
  | .idle =>
    match startFault? s with
    | some code => raiseFault code s
    | none => startRun s

/-- What a REGWR does to a register (R154, R30 to R42). DEDUCED, unsafe (log 25): a write of IEN acts on `irq` at once
in every SST, as R61 and R270 make `irq` a function of the state; the table of R81 would have it act from the next
START when written in RUN, and never when written in FAULT. -/
def writeReg (reg : Reg) (value : Word) (s : State) : State :=
  match reg with
  | .ctrl => if value.getLsbD 0 then startEffects s else s
  | .status => ackEffects value s
  | .width => { s with host := { s.host with width := value.extractLsb' 0 16 } }
  | .height => { s with host := { s.host with height := value.extractLsb' 0 16 } }
  | .policy => { s with host := { s.host with policy := value } }
  | .mode => { s with host := { s.host with par := value.getLsbD 0, dyn := value.getLsbD 1 } }
  | .lanes => { s with host := { s.host with lanesLimit := value.extractLsb' 0 8 } }
  | .chunk => { s with host := { s.host with chunk := value.extractLsb' 0 16 } }
  | .ien => { s with host := { s.host with ieDone := value.getLsbD 0, ieErr := value.getLsbD 1 } }
  | .units => s
  | .cap => s
  | .memcap => s

/-- REGRD (R153). -/
def execRegrd (addr : Addr) (s : State) : Result :=
  match regOfOffset addr with
  | none => .next (respondErr s)
  | some reg => .next (respondOk (regValue s reg) s)

/-- REGWR (R154), with the START effects for CTRL and the ACK effects for STATUS. -/
def execRegwr (addr : Addr) (value : Word) (s : State) : Result :=
  match regOfOffset addr with
  | none => .next (respondErr s)
  | some reg => .next (respondOk 0 (writeReg reg value s))

/-- SAMPRD.I (R155): exact in every SST. -/
def execSamprdI (index : Addr) (s : State) : Result :=
  if cellExists s index then .next (respondOk ((imemRead s index.toNat).setWidth 32) s)
  else .next (respondErr s)

/-- SAMPWR.I (R156): dropped with WDROP while `SST = RUN`, performed otherwise. -/
def execSampwrI (index : Addr) (value : Word) (s : State) : Result :=
  if cellExists s index then
    if s.sched.sst = .run then .next (respondOk 0 (setWdrop s))
    else .next (respondOk 0 (imemWrite s index.toNat (sampleOf value)))
  else .next (respondErr s)

/-- SAMPRD.O (R157): any value while `SST = RUN` (log 7), the stored value otherwise, which is unspecified in every
cell after a fault raised during a run (R81, R267; log 8). -/
def execSamprdO (index : Addr) (s : State) : Result :=
  if cellExists s index then
    if s.sched.sst = .run then .next (respondOk ((Config.busyRead s.env.draws).setWidth 32) (drawn s))
    else .next (respondOk ((omemRead s index.toNat).setWidth 32) s)
  else .next (respondErr s)

/-- SAMPWR.O (R158): refused with ERR whatever the index and the value. -/
def execSampwrO (_index : Addr) (_value : Word) (s : State) : Result := .next (respondErr s)

/-- ACK (R159). -/
def execAck (mask : Word) (s : State) : Result := .next (respondOk 0 (ackEffects mask s))

/-- START (R160). The response is (OK, 0) also where a fault is raised (log 9). -/
def execStart (s : State) : Result := .next (respondOk 0 (startEffects s))

end Sys2Proof.Machine
end

