-- ==== Sys2Proof/Machine/Window.lean ====
section
/-! DEFINITION. The lane sequencer and the window shifter (43_window_shifter.md): the next micro-operation, LDESC,
WSHIFT, RETIRE. -/

namespace Sys2Proof.Machine

/-- What the sequencer of a lane does next (R191). -/
inductive SeqChoice where
  /-- `none`: the lane waits for DISPATCH. -/
  | wait
  /-- It issues this code. -/
  | issue (code : UopCode)
  /-- It raises E_ILLEGAL. -/
  | illegal
deriving DecidableEq, Repr

/-- `next_uop(l)` (R191), a function of the lane's registers and of APOL. A CONV item under a policy that is no
filter is illegal whatever AV says (R265; log 11). -/
def nextUop (apol : Word) (L : Lane) : SeqChoice :=
  match L.st with
  | .idle => .wait
  | .load => .issue 0x1
  | .run =>
    if L.rem = 0 then .issue 0x8
    else
      match L.kind with
      | .pass => .issue 0x7
      | .none => .illegal
      | .conv =>
        if !isFilter apol then .illegal
        else if L.wv ≠ 3#2 ∨ colAtCentre L = false then .issue 0x2
        else
          match L.av with
          | .none => if apol = 1#32 then .issue 0x3 else .issue 0x4
          | .avg => .issue 0x5
          | .sob => .issue 0x6

/-- A lane in RUN with pixels left of a CONV item: the part of the precondition that WSHIFT, ACC.AVG, ACC.SOB,
EMIT.AVG and EMIT.SOB share (R198, R211, R212, R232, R233). -/
def convInProgress (L : Lane) : Bool :=
  decide (L.st = .run) && decide (L.kind = .conv) && decide (L.rem ≠ 0)

/-- LDESC (R193): the precondition, then `kind` and `zero`, then `x0` (R264 (b)). -/
def execLdesc (s : State) : Result :=
  laneStep (fun L =>
    if L.st = .load then
      match kindOfField (descKind L.dreg) with
      | none => .next (raiseFault .illegal s)
      | some kind =>
        if descZero L.dreg ≠ 0 then .next (raiseFault .illegal s)
        else if kind = .conv ∧ descX0 L.dreg = 0 then .next (raiseFault .bounds s)
        else .next (setLane s s.env.who { L with
          kind := kind
          y := descY L.dreg
          x := descX0 L.dreg
          rem := descN L.dreg
          col := if kind = .conv then descX0 L.dreg - 1 else 0
          wv := 0
          av := .none
          st := .run })
    else .next (raiseFault .illegal s)) s

/-- Window row `r` after a shift: columns 1 and 2 move left, the new sample of column `COL` enters (R198). -/
def shiftRow (row : Tri (Tri Sample)) (new : Tri Sample) : Tri (Tri Sample) := ⟨row.i1, row.i2, new⟩

/-- The window after a shift: row `r` receives column `COL` of image row `Y + r - 1` (R198). -/
def shiftWindow (s : State) (L : Lane) : Window :=
  .of fun r => shiftRow (L.win.get r) (imemPixel s (pixelNumber s L.col.toNat (L.y.toNat + r.val - 1)))

/-- `WV <- min(3, WV + 1)` (R198). -/
def nextWv (wv : BitVec 2) : BitVec 2 := if wv = 3#2 then 3#2 else wv + 1

/-- The image holds rows `Y-1 .. Y+1` and column `COL` (R198): otherwise E_BOUNDS. -/
def shiftInBounds (s : State) (L : Lane) : Bool :=
  decide (1 ≤ L.y.toNat) && decide (L.y.toNat + 1 < s.sched.ah.toNat) && decide (L.col.toNat < s.sched.aw.toNat)

/-- WSHIFT (R198). The pixel of row `Y + 1` has the largest sample indices of the nine reads. -/
def execWshift (s : State) : Result :=
  laneStep (fun L =>
    if convInProgress L then
      if shiftInBounds s L then
        if pixelExists s (pixelNumber s L.col.toNat (L.y.toNat + 1)) then
          .next (setLane s s.env.who { L with
            win := shiftWindow s L
            col := L.col + 1
            wv := nextWv L.wv
            av := .none })
        else .fault .noSuchCell
      else .next (raiseFault .bounds s)
    else .next (raiseFault .illegal s)) s

/-- RETIRE (R199). -/
def execRetire (s : State) : Result :=
  laneStep (fun L =>
    if L.st = .run ∧ L.rem = 0 then
      .next { setLane s s.env.who { L with st := .idle, kind := .none, wv := 0, av := .none } with
        sched := { s.sched with retired := s.sched.retired + 1 } }
    else .next (raiseFault .illegal s)) s

end Sys2Proof.Machine
end

