-- ==== Sys2Proof/Machine/Accumulator.lean ====
section
/-! DEFINITION. The convolution accumulator (44_accumulator.md): the nine-sample sum, the two kernels, ACC.AVG and
ACC.SOB. -/

namespace Sys2Proof.Machine

/-- The horizontal kernel `Kx[r][j]` (R110, R212). -/
def kx : Tri (Tri Int) := ⟨⟨-1, 0, 1⟩, ⟨-2, 0, 2⟩, ⟨-1, 0, 1⟩⟩

/-- The vertical kernel `Ky[r][j]` (R110, R212). -/
def ky : Tri (Tri Int) := ⟨⟨-1, -2, -1⟩, ⟨0, 0, 0⟩, ⟨1, 2, 1⟩⟩

/-- `Σ_r Σ_j k[r][j] * WIN[r][j][c]`, exact (R212). -/
def kernelSum (k : Tri (Tri Int)) (w : Window) (c : Fin 3) : Int :=
  let term (r j : Fin 3) : Int := (k.get r).get j * ((w.at r j c).toNat : Int)
  let row (r : Fin 3) : Int := term r 0 + term r 1 + term r 2
  row 0 + row 1 + row 2

/-- `Σ_r Σ_j WIN[r][j][c]`, exact (R211). -/
def boxSum (w : Window) (c : Fin 3) : Nat :=
  let row (r : Fin 3) : Nat := (w.at r 0 c).toNat + (w.at r 1 c).toNat + (w.at r 2 c).toNat
  row 0 + row 1 + row 2

/-- The precondition of ACC.AVG and ACC.SOB (R211, R212): the window is centred (R196). Answers the window, whose
27 registers then all hold values (R56). -/
def centredWindow? (L : Lane) : Option Window :=
  if convInProgress L && colAtCentre L then fullWindow L else none

/-- ACC.AVG (R211). The sum fits 12 bits (R214). -/
def execAccAvg (s : State) : Result :=
  laneStep (fun L =>
    match centredWindow? L with
    | some w => .next (setLane s s.env.who { L with
        sum := .of fun c => BitVec.ofNat 12 (boxSum w c)
        av := .avg })
    | none => .next (raiseFault .illegal s)) s

/-- ACC.SOB (R212). The sums fit 12-bit two's complement (R214). -/
def execAccSob (s : State) : Result :=
  laneStep (fun L =>
    match centredWindow? L with
    | some w => .next (setLane s s.env.who { L with
        gx := .of fun c => BitVec.ofInt 12 (kernelSum kx w c)
        gy := .of fun c => BitVec.ofInt 12 (kernelSum ky w c)
        av := .sob })
    | none => .next (raiseFault .illegal s)) s

end Sys2Proof.Machine
end

