-- ==== Sys2Proof/Machine/Output.lean ====
section
/-! DEFINITION. The 8-bit clamped-output pipeline (45_output_pipeline.md): the stage functions, EMIT.AVG and
EMIT.SOB. -/

namespace Sys2Proof.Machine

/-- `div9(s) = s div 9` (R226). -/
def div9 (n : Nat) : Nat := n / 9

/-- `mag2(gx, gy) = gx*gx + gy*gy` (R227). -/
def mag2 (gx gy : Int) : Nat := (gx * gx + gy * gy).toNat

/-- The digits of a square root from bit `k - 1` down, starting from `n`. -/
def isqrtFrom (sq : Nat) : (k n : Nat) → Nat
  | 0, n => n
  | k + 1, n => if (n + 2 ^ k) * (n + 2 ^ k) ≤ sq then isqrtFrom sq k (n + 2 ^ k) else isqrtFrom sq k n

/-- `isqrt(S)`, the largest `n` with `n*n <= S` (R8, R134), found from its highest binary digit down. -/
def isqrt (sq : Nat) : Nat := isqrtFrom sq (sq.log2 / 2 + 1) 0

/-- `root(S)` under a rounding mode (R134, R228). -/
def root (m : MagRound) (sq : Nat) : Nat :=
  match m with
  | .trunc => isqrt sq
  | .nearest => if sq ≤ isqrt sq * isqrt sq + isqrt sq then isqrt sq else isqrt sq + 1

/-- `clamp8(m) = min(255, m)`, compared on the full value and only then narrowed (R229). -/
def clamp8 (m : Nat) : Sample := BitVec.ofNat 8 (min 255 m)

/-- The sample EMIT.AVG writes for a channel (R232). -/
def avgSample (sum : Acc) : Sample := clamp8 (div9 sum.toNat)

/-- The sample EMIT.SOB writes for a channel: the accumulators are read as two's complement (R233). -/
def sobSample (m : MagRound) (gx gy : Acc) : Sample := clamp8 (root m (mag2 gx.toInt gy.toInt))

/-- Pixel `(X, Y)` lies in the image (R232, R233, R246): otherwise E_BOUNDS. -/
def pixelInBounds (s : State) (L : Lane) : Bool :=
  decide (L.x.toNat < s.sched.aw.toNat) && decide (L.y.toNat < s.sched.ah.toNat)

/-- The number of pixel `(X, Y)`: its samples are at `3*(Y*AW + X) + c` (R232). -/
def lanePixel (s : State) (L : Lane) : Nat := pixelNumber s L.x.toNat L.y.toNat

/-- The writing part that EMIT.AVG, EMIT.SOB and PASS share: three samples of pixel `(X, Y)`, then the advance. -/
def writeLanePixel (s : State) (L L' : Lane) (v : Tri Sample) : Result :=
  if pixelInBounds s L then
    if pixelExists s (lanePixel s L) then
      .next (setLane (omemWritePixel s (lanePixel s L) v) s.env.who L')
    else .fault .noSuchCell
  else .next (raiseFault .bounds s)

/-- EMIT.AVG (R232). -/
def execEmitAvg (s : State) : Result :=
  laneStep (fun L =>
    if convInProgress L ∧ L.av = .avg then
      writeLanePixel s L (emitAdvance L) (.of fun c => avgSample (L.sum.get c))
    else .next (raiseFault .illegal s)) s

/-- EMIT.SOB (R233). -/
def execEmitSob (s : State) : Result :=
  laneStep (fun L =>
    if convInProgress L ∧ L.av = .sob then
      writeLanePixel s L (emitAdvance L) (.of fun c => sobSample s.cfg.magRound (L.gx.get c) (L.gy.get c))
    else .next (raiseFault .illegal s)) s

end Sys2Proof.Machine
end

