-- ==== Sys2Proof/Machine/Passthrough.lean ====
section
/-! DEFINITION. Border pixel passthrough (46_passthrough.md): PASS. -/

namespace Sys2Proof.Machine

/-- A lane in RUN with pixels left of a PASS item (R246). -/
def passInProgress (L : Lane) : Bool :=
  decide (L.st = .run) && decide (L.kind = .pass) && decide (L.rem ≠ 0)

/-- PASS (R246): the three samples of pixel `(X, Y)`, unchanged, index for index. -/
def execPass (s : State) : Result :=
  laneStep (fun L =>
    if passInProgress L then writeLanePixel s L (passAdvance L) (imemPixel s (lanePixel s L))
    else .next (raiseFault .illegal s)) s

end Sys2Proof.Machine
end

