-- ==== Sys2Proof/Machine/Dispatch.lean ====
section
/-! DEFINITION. The meaning of every operation, one arm each. -/

namespace Sys2Proof.Machine

def exec (i : Instr) (s : State) : Host.Outcome State Fault Refusal :=
  match i with
  | .regrd addr => Sys2Proof.Machine.execRegrd addr s
  | .regwr addr value => Sys2Proof.Machine.execRegwr addr value s
  | .samprdI index => Sys2Proof.Machine.execSamprdI index s
  | .sampwrI index value => Sys2Proof.Machine.execSampwrI index value s
  | .samprdO index => Sys2Proof.Machine.execSamprdO index s
  | .sampwrO index value => Sys2Proof.Machine.execSampwrO index value s
  | .ack mask => Sys2Proof.Machine.execAck mask s
  | .start => Sys2Proof.Machine.execStart s
  | .dispatchConv y x0 n => Sys2Proof.Machine.execDispatchConv y x0 n s
  | .dispatchPass y x0 n => Sys2Proof.Machine.execDispatchPass y x0 n s
  | .ldesc => Sys2Proof.Machine.execLdesc s
  | .wshift => Sys2Proof.Machine.execWshift s
  | .accAvg => Sys2Proof.Machine.execAccAvg s
  | .accSob => Sys2Proof.Machine.execAccSob s
  | .emitAvg => Sys2Proof.Machine.execEmitAvg s
  | .emitSob => Sys2Proof.Machine.execEmitSob s
  | .pass => Sys2Proof.Machine.execPass s
  | .retire => Sys2Proof.Machine.execRetire s

end Sys2Proof.Machine
end

