-- ==== Sys2Proof/Machine/Fetch.lean ====
section
/-! DEFINITION. Which move is made next, and the word it puts on an interface (00_scope.md R7, 30_encoding.md
R100, 42_scheduler.md R175, R180, 43_window_shifter.md R190, R191). -/

namespace Sys2Proof.Machine

/-- What a move comes to. -/
inductive Fetched where
  /-- A word on an interface, to be decoded and run. -/
  | word (w : BusWord)
  /-- The scheduler takes JOIN, which has no word (R100). -/
  | join
  /-- The reset input (R290). -/
  | reset
  /-- The sequencer raises E_ILLEGAL (R191, R265). -/
  | illegal
  /-- No agent takes a step. -/
  | idle
deriving DecidableEq, Repr

/-- Lane `l` has work (`ST` LOAD or RUN), so it has exactly one enabled step (R191). -/
def laneBusy (s : State) (l : Nat) : Bool :=
  match s.lanes[l]? with
  | some L => decide (L.st ≠ .idle)
  | none => false

/-- The enabled steps of the scheduler and of the lanes (R7, R175, R180, R190, R191). -/
def enabledMoves (s : State) : List Move :=
  if s.sched.sst = .run then
    (if dispatchReady s then [.dispatch (Config.laneDraw s.env.draws)] else [])
      ++ (if joinReady s then [.join] else [])
      ++ ((List.range s.lanes.length).filter (laneBusy s)).map .lane
  else []

/-- The next move: the agenda's first; with an empty agenda one of the hardware's own enabled steps, any of them
(log 1, log 2). -/
def takeMove (s : State) : Option Move × State :=
  match s.env.agenda with
  | m :: ms => (some m, { s with env := { s.env with agenda := ms } })
  | [] => ((enabledMoves s)[Config.turnDraw s.env.draws % (enabledMoves s).length]?, drawn s)

/-- The choice that goes with a word: the acting lane, or which idle lane receives a descriptor. -/
def withWho (s : State) (l : Nat) : State := { s with env := { s.env with who := l } }

/-- The word a move puts on an interface. The scheduler issues the descriptor of `item(NEXT)` (R175), a lane the
code its sequencer selects (R191), each only when its guard holds (R175, R190). -/
def issue (m : Move) (s : State) : Fetched × State :=
  match m with
  | .host w => (.word (.h w), s)
  | .reset => (.reset, s)
  | .dispatch choice =>
    if dispatchReady s then
      match nextItem? s with
      | some it => (.word (.d (itemWord it)), withWho s choice)
      | none => (.idle, s)
    else (.idle, s)
  | .join => (.join, s)
  | .lane l =>
    if s.sched.sst = .run then
      match s.lanes[l]? with
      | none => (.idle, s)
      | some L =>
        match nextUop s.sched.apol L with
        | .wait => (.idle, s)
        | .issue code => (.word (.u code), withWho s l)
        | .illegal => (.illegal, withWho s l)
    else (.idle, s)
  | .descr choice w => (.word (.d w), withWho s choice)
  | .uop l w => (.word (.u w), withWho s l)

/-- The fetch: the next move, and what it comes to. -/
def fetch (s : State) : Fetched × State :=
  match takeMove s with
  | (some m, s') => issue m s'
  | (none, _) => (.idle, s)

/-- The effect of a word that is no operation (R111): format H is refused with ERR (R152), a descriptor reaches
`DREG` and LDESC will raise E_ILLEGAL (R193), a format U code raises E_ILLEGAL (R265). -/
def undecodable (w : BusWord) (s : State) : Result :=
  match w with
  | .h _ => .next (respondErr s)
  | .d d => deliver d s
  | .u _ => laneStep (fun _ => .next (raiseFault .illegal s)) s

/-- The moves that hardware following the spec makes: every move but a word put on an inner interface from
outside (R111, log 12). -/
def moveBySpec : Move → Bool
  | .descr _ _ => false
  | .uop _ _ => false
  | .host _ => true
  | .reset => true
  | .dispatch _ => true
  | .join => true
  | .lane _ => true

/-- The state in which a word is the next to be fetched (used by `withFetchWord`): the host port takes a word in
any state; a lane takes a code only while `SST = RUN` (R190); a descriptor travels only while a run has an item
left to dispatch and an enabled lane (R175). -/
def presentWord (w : BusWord) (s : State) : State :=
  match w with
  | .h r => { s with env := { s.env with agenda := .host r :: s.env.agenda } }
  | .d d =>
    let ready := if dispatchReady s then s.sched else
      { s.sched with sst := .run, u := BitVec.ofNat 8 s.cfg.nlanes, nitems := s.sched.next + 1 }
    { s with sched := ready, env := { s.env with agenda := .descr 0 d :: s.env.agenda } }
  | .u c => { s with
      sched := { s.sched with sst := .run }
      env := { s.env with agenda := .uop 0 c :: s.env.agenda } }

end Sys2Proof.Machine
end

