-- ==== Sys2Proof/Machine/Step.lean ====
section
/-! DEFINITION. One step of the machine: fetch, decode, run. -/

namespace Sys2Proof.Machine

/-- One atomic step of one agent (R7). -/
def step (s : State) : Host.Outcome State Fault Refusal :=
  match fetch s with
  | (.word w, s') =>
    match decode w with
    | some i => exec i s'
    | none => undecodable w s'
  | (.join, s') => .next (joinStep s')
  | (.reset, s') => .next (applyReset s')
  | (.illegal, s') => .next (raiseFault .illegal s')
  | (.idle, s') => .next s'

/-- `s` with the word of a table row stored where the next step fetches it (log 1). -/
def State.withFetchWord (s : State) (nbits w : Nat) : State := presentWord (busWordOf nbits w) s

end Sys2Proof.Machine
end

