-- ==== Sys2Proof/Machine/Reference.lean ====
section
/-! DEFINITION. The reference function of a run (40_reference_function.md): what a whole run computes, as a pure
function of the input image. It names no register of the machine. -/

namespace Sys2Proof.Machine

/-- `I(x, y, c)`, the image that IMEM holds in the shape of width `w` (R130). -/
def imageAt (s : State) (w x y : Nat) (c : Fin 3) : Nat := (imemRead s (3 * (y * w + x) + c.val)).toNat

/-- `interior(w, h, x, y)`: `1 <= x <= w-2` and `1 <= y <= h-2` (R131). -/
def interior (w h x y : Nat) : Bool :=
  decide (1 ≤ x) && decide (x + 2 ≤ w) && decide (1 ≤ y) && decide (y + 2 ≤ h)

/-- The sum of the nine samples around `(x, y)`, centre included (R132). -/
def refSum (I : Nat → Nat → Fin 3 → Nat) (x y : Nat) (c : Fin 3) : Nat :=
  I (x - 1) (y - 1) c + I x (y - 1) c + I (x + 1) (y - 1) c
    + I (x - 1) y c + I x y c + I (x + 1) y c
    + I (x - 1) (y + 1) c + I x (y + 1) c + I (x + 1) (y + 1) c

/-- `avg(I, x, y, c)` (R132): the truncating mean. -/
def refAvg (I : Nat → Nat → Fin 3 → Nat) (x y : Nat) (c : Fin 3) : Nat := refSum I x y c / 9

/-- `gx(I, x, y, c)`, written out (R133). -/
def refGx (I : Nat → Nat → Fin 3 → Nat) (x y : Nat) (c : Fin 3) : Int :=
  ((I (x + 1) (y - 1) c : Int) - I (x - 1) (y - 1) c) + 2 * ((I (x + 1) y c : Int) - I (x - 1) y c)
    + ((I (x + 1) (y + 1) c : Int) - I (x - 1) (y + 1) c)

/-- `gy(I, x, y, c)`, written out (R133). -/
def refGy (I : Nat → Nat → Fin 3 → Nat) (x y : Nat) (c : Fin 3) : Int :=
  ((I (x - 1) (y + 1) c : Int) + 2 * I x (y + 1) c + I (x + 1) (y + 1) c)
    - ((I (x - 1) (y - 1) c : Int) + 2 * I x (y - 1) c + I (x + 1) (y - 1) c)

/-- `sob(I, x, y, c) = min(255, root(gx^2 + gy^2))` (R135): the clamp is applied to the integer root. -/
def refSob (m : MagRound) (I : Nat → Nat → Fin 3 → Nat) (x y : Nat) (c : Fin 3) : Nat :=
  min 255 (root m (mag2 (refGx I x y c) (refGy I x y c)))

/-- `apply(w, h, I, P)` at pixel `(x, y)`, channel `c` (R136). -/
def refApply (m : MagRound) (w h : Nat) (policy : Word) (I : Nat → Nat → Fin 3 → Nat) (x y : Nat) (c : Fin 3) :
    Nat :=
  if policy = 1#32 ∧ interior w h x y then refAvg I x y c
  else if policy = 2#32 ∧ interior w h x y then refSob m I x y c
  else I x y c

/-- How many lane steps an item of `n` pixels takes (R182): `n + 2` for PASS, `3n + 4` for CONV. -/
def itemSteps (conv : Bool) (n : Nat) : Nat := if conv then 3 * n + 4 else n + 2

/-- How many scheduler and lane steps a run takes (R182): the lane steps of its items, a DISPATCH each, and a JOIN. -/
def runSteps (aw ah : Nat) (apol : Word) (achunk : Nat) : Nat :=
  ((items aw ah apol achunk).map fun it => 1 + itemSteps it.conv it.n).sum + 1

end Sys2Proof.Machine
end

