-- ==== Sys2Proof/Safety.lean ====
section
/-! DEFINITION. What holds in every state (10_state.md R64), and what holds in every state of a run of hardware
that follows the spec (42_scheduler.md R171, R186; 43_window_shifter.md R196; 20_memory.md R82, R90). -/

namespace Sys2Proof.Machine

/-- Every entry of a memory is a cell of it (R21, R22). -/
def Memory.within (m : Memory) (size : Nat) : Prop := ∀ cell ∈ m, cell.1 < size

/-- How many lanes have `ST != IDLE` (R64 (b)). -/
def busyCount (s : State) : Nat := s.lanes.countP fun L => decide (L.st ≠ .idle)

/-- What `SST = RUN` implies (R64 (b); R45, R48, R73, R173). -/
structure RunShape (s : State) : Prop where
  shape : s.sched.aw ≠ 0 ∧ s.sched.ah ≠ 0
  fits : s.sched.aw.toNat * s.sched.ah.toNat ≤ s.cfg.memPixels
  length : s.sched.nitems.toNat = (runItems s).length
  team : 1 ≤ s.sched.u.toNat ∧ s.sched.u.toNat ≤ s.cfg.nlanes
  cursors : s.sched.retired ≤ s.sched.next ∧ s.sched.next ≤ s.sched.nitems
  inFlight : busyCount s + s.sched.retired.toNat = s.sched.next.toNat
  enabled : ∀ l, laneBusy s l = true → l < s.sched.u.toNat

/-- The invariant that every step keeps, whatever word is put on an interface: the ranges of the parameters (R6),
one lane record per lane, memories in canonical form and within their size, and R64 (a) to (d);
R64 (e), which a descriptor put on the interface from outside could break (log 12), stands in `RunInv`. -/
structure MachineInv (s : State) : Prop where
  params : s.cfg.wf
  laneCount : s.lanes.length = s.cfg.nlanes
  imemForm : Memory.wf s.imem = true
  imemSize : Memory.within s.imem (cellCount s.cfg)
  omemForm : Memory.wf s.omem = true
  omemSize : Memory.within s.omem (cellCount s.cfg)
  faultCode : s.host.ecode ≠ 0 ↔ s.sched.sst = .fault
  faultRange : s.host.ecode ≤ 4
  doneAfterRun : s.host.done = true → s.sched.sst ≠ .run
  restingLane : ∀ L ∈ s.lanes, L.st ≠ .run → L.kind = .none ∧ L.wv = 0 ∧ L.av = .none ∧ L.rem = 0
  restingMachine : s.sched.sst = .idle → ∀ L ∈ s.lanes, L.st = .idle
  running : s.sched.sst = .run → RunShape s

/-- A well-formed descriptor for the active shape and policy (R105). -/
structure DescWellFormed (aw ah : Nat) (apol : Word) (d : Descriptor) : Prop where
  zero : descZero d = 0
  count : 1 ≤ (descN d).toNat
  row : (descY d).toNat + 1 ≤ ah
  columns : (descX0 d).toNat + (descN d).toNat ≤ aw
  kind : descKind d = 1 ∨ descKind d = 2
  conv : descKind d = 1 → 1 ≤ (descY d).toNat ∧ (descY d).toNat + 2 ≤ ah ∧ 1 ≤ (descX0 d).toNat
    ∧ (descX0 d).toNat + (descN d).toNat + 1 ≤ aw ∧ isFilter apol = true ∧ 3 ≤ aw ∧ 3 ≤ ah

/-- Pixel `(x, y)` of the active shape is to be filtered, not copied (R136, R171). -/
def pixelFiltered (s : State) (x y : Nat) : Prop :=
  isFilter s.sched.apol = true ∧ interior s.sched.aw.toNat s.sched.ah.toNat x y = true

/-- A lane with a PASS item in progress: what is left of it lies in the image and is to be copied (R171, R246). -/
structure PassProgress (s : State) (L : Lane) : Prop where
  row : L.y.toNat < s.sched.ah.toNat
  columns : L.x.toNat + L.rem.toNat ≤ s.sched.aw.toNat
  copied : ∀ x, L.x.toNat ≤ x → x < L.x.toNat + L.rem.toNat → ¬pixelFiltered s x L.y.toNat

/-- What `ST = RUN` with `KIND = CONV` implies in every `SST` (R64 (e)): `1 <= Y <= AH - 2`, APOL is 1 or 2, and
AW and AH are at least 3. -/
structure ConvShape (s : State) (L : Lane) : Prop where
  policy : s.sched.apol = 1 ∨ s.sched.apol = 2
  shape : 3 ≤ s.sched.aw.toNat ∧ 3 ≤ s.sched.ah.toNat
  rows : 1 ≤ L.y.toNat ∧ L.y.toNat + 2 ≤ s.sched.ah.toNat

/-- A lane with a CONV item in progress (R64 (e), R191 to R198, R211, R212): what is left of it lies in the
interior; the window is being primed, or centred on `(X, Y)`, or one column behind; its valid columns hold IMEM;
and valid accumulators hold the sums of the nine samples around `(X, Y)`. -/
structure ConvProgress (s : State) (L : Lane) : Prop extends ConvShape s L where
  columns : 1 ≤ L.x.toNat ∧ L.x.toNat + L.rem.toNat + 1 ≤ s.sched.aw.toNat
  priming : L.wv.toNat < 3 → L.rem ≠ 0 ∧ L.col.toNat + 1 = L.x.toNat + L.wv.toNat ∧ L.av = .none
  primed : L.wv = 3 → (L.col.toNat = L.x.toNat + 2 ∧ L.rem ≠ 0) ∨ (L.col.toNat = L.x.toNat + 1 ∧ L.av = .none)
  window : ∀ r j c : Fin 3, columnValid L j = true →
    (L.win.at r j c).toNat = imageAt s s.sched.aw.toNat (L.col.toNat + j.val - 3) (L.y.toNat + r.val - 1) c
  average : L.av = .avg → s.sched.apol = 1 ∧
    ∀ c, (L.sum.get c).toNat = refSum (imageAt s s.sched.aw.toNat) L.x.toNat L.y.toNat c
  sobel : L.av = .sob → s.sched.apol = 2 ∧
    ∀ c, (L.gx.get c).toInt = refGx (imageAt s s.sched.aw.toNat) L.x.toNat L.y.toNat c
      ∧ (L.gy.get c).toInt = refGy (imageAt s s.sched.aw.toNat) L.x.toNat L.y.toNat c

/-- What a busy lane holds while hardware that follows the spec runs. -/
structure LaneTracks (s : State) (L : Lane) : Prop where
  load : L.st = .load → DescWellFormed s.sched.aw.toNat s.sched.ah.toNat s.sched.apol L.dreg
  loadPass : L.st = .load → descKind L.dreg = 2 → ∀ x, (descX0 L.dreg).toNat ≤ x →
    x < (descX0 L.dreg).toNat + (descN L.dreg).toNat → ¬pixelFiltered s x (descY L.dreg).toNat
  kind : L.st = .run → L.kind ≠ .none
  pass : L.st = .run → L.kind = .pass → PassProgress s L
  conv : L.st = .run → L.kind = .conv → ConvProgress s L

/-- Pixel `(x, y)` of OMEM holds the reference result of the image in IMEM (R136). -/
def pixelDone (s : State) (x y : Nat) : Prop :=
  ∀ c : Fin 3, (omemRead s (3 * (y * s.sched.aw.toNat + x) + c.val)).toNat =
    refApply s.cfg.magRound s.sched.aw.toNat s.sched.ah.toNat s.sched.apol (imageAt s s.sched.aw.toNat) x y c

/-- Item `it` covers pixel `(x, y)` (R104). -/
def itemCovers (it : Item) (x y : Nat) : Prop := it.y = y ∧ it.x0 ≤ x ∧ x < it.x0 + it.n

/-- Pixel `(x, y)` belongs to an item that is still to be dispatched (R175). -/
def pixelPending (s : State) (x y : Nat) : Prop :=
  ∃ k it, s.sched.next.toNat ≤ k ∧ (runItems s)[k]? = some it ∧ itemCovers it x y

/-- Pixel `(x, y)` is still to be written by lane record `L`. -/
def laneOwes (L : Lane) (x y : Nat) : Prop :=
  (L.st = .load ∧ (descY L.dreg).toNat = y ∧ (descX0 L.dreg).toNat ≤ x
      ∧ x < (descX0 L.dreg).toNat + (descN L.dreg).toNat)
    ∨ (L.st = .run ∧ L.y.toNat = y ∧ L.x.toNat ≤ x ∧ x < L.x.toNat + L.rem.toNat)

/-- Every pixel of the image is done, or pending, or owed by a lane (R90, R171). -/
def pixelsAccounted (s : State) : Prop :=
  ∀ x y, x < s.sched.aw.toNat → y < s.sched.ah.toNat →
    pixelDone s x y ∨ pixelPending s x y ∨ ∃ L ∈ s.lanes, laneOwes L x y

/-- The invariant of hardware that follows the spec: no word is put on an inner interface from outside (log 12); a
lane with a CONV item has a row and a shape for it whatever `SST` is (R64 (e)); and during a run every busy lane
tracks its item and every pixel is accounted for. -/
structure RunInv (s : State) : Prop where
  machine : MachineInv s
  bySpec : ∀ m ∈ s.env.agenda, moveBySpec m = true
  convLanes : ∀ L ∈ s.lanes, L.st = .run → L.kind = .conv → ConvShape s L
  tracks : s.sched.sst = .run → ∀ L ∈ s.lanes, LaneTracks s L
  accounted : s.sched.sst = .run → pixelsAccounted s

/-- How many steps lane record `L` still takes for its item (R182, R191). -/
def laneStepsLeft (L : Lane) : Nat :=
  match L.st with
  | .idle => 0
  | .load => itemSteps (decide (descKind L.dreg = 1)) (descN L.dreg).toNat
  | .run =>
    match L.kind with
    | .conv =>
      if L.rem = 0 then 1
      else if L.wv ≠ 3 then (3 - L.wv.toNat) + 3 * L.rem.toNat
      else if colAtCentre L = false then 3 * L.rem.toNat + 1
      else if L.av = .none then 3 * L.rem.toNat
      else 3 * L.rem.toNat - 1
    | _ => L.rem.toNat + 1

/-- How many scheduler and lane steps a run in progress still takes (R182, R186). -/
def stepsLeft (s : State) : Nat :=
  (((runItems s).drop s.sched.next.toNat).map fun it => 1 + itemSteps it.conv it.n).sum
    + (s.lanes.map laneStepsLeft).sum + 1

/-- A run has ended with its result in OMEM (R137 (a), (c)). -/
structure RunResult (s : State) : Prop where
  idle : s.sched.sst = .idle
  done : s.host.done = true
  units : s.host.units = s.sched.u
  pixels : ∀ x y, x < s.sched.aw.toNat → y < s.sched.ah.toNat → pixelDone s x y

/-! ## The states that statements name -/

/-- `s` with the response `(r, v)` of a host transaction, and nothing else changed (R150). -/
def answered (s : State) (r : Resp) (v : Word) : State :=
  { s with env := { s.env with resp := some ⟨r, v⟩ } }

/-- `s` after fault entry with this code from a state that is not in FAULT, and nothing else changed (R266). -/
def faulted (s : State) (code : BitVec 4) : State :=
  { s with host := { s.host with ecode := code }, sched := { s.sched with sst := .fault } }

/-- Lane record `L` is that of the lane that performs the micro-operation, and lanes step (R190). -/
def actingLane (s : State) (L : Lane) : Prop :=
  s.sched.sst = .run ∧ s.lanes[s.env.who]? = some L

/-- `s` with new registers for the acting lane, and nothing else changed. -/
def withLane (s : State) (L : Lane) : State := { s with lanes := s.lanes.set s.env.who L }

/-- `s` with its first move taken from the agenda. -/
def popped (s : State) (ms : List Move) : State := { s with env := { s.env with agenda := ms } }

end Sys2Proof.Machine
end

