-- ==== Sys2Proof/Certificates/Slice0/Obligations.lean ====
section
/-! DEFINITION. The statements about the machine, for the provers. -/

open Sys2Proof Sys2Proof.Machine

/-! ## Encoding -/

/-- Words written out from 30_encoding.md and 95_test_vectors.md decode to the operations they stand for. -/
def Obligations.WordsDecodeAsTheSpecWritesThem : Prop :=
  decodeTableWord 72 0x000000000400000000 = some (.regrd 0x04) ∧
  decodeTableWord 72 0x200000001000000002 = some (.regwr 0x10 2) ∧
  decodeTableWord 72 0x400000002400000000 = some (.samprdI 36) ∧
  decodeTableWord 72 0x6000000024000000FF = some (.sampwrI 36 255) ∧
  decodeTableWord 72 0x800000001200000000 = some (.samprdO 18) ∧
  decodeTableWord 72 0xA00000000000000007 = some (.sampwrO 0 7) ∧
  decodeTableWord 72 0x200000000400000002 = some (.ack 2) ∧
  decodeTableWord 72 0x200000000000000001 = some .start ∧
  decodeTableWord 64 0x4000000100010003 = some (.dispatchConv 1 1 3) ∧
  decodeTableWord 64 0x8000000100040001 = some (.dispatchPass 1 4 1) ∧
  decodeTableWord 8 0x2 = some .wshift ∧ decodeTableWord 8 0x8 = some .retire

/-- Decode and encode agree on every well-formed operation, every operand at every value of its field. -/
def Obligations.DecodingAnEncodedOperationGivesItBack : Prop :=
  ∀ i : Instr, i.wf = true → decode (encode i) = some i

/-- The words that are no operation are exactly the reserved and illegal ones (R102, R104, R107, R111). -/
def Obligations.OnlyReservedWordsDecodeToNothing : Prop :=
  (∀ w : Request, decode (.h w) = none ↔ (w.extractLsb' 70 2 = 3 ∨ w.extractLsb' 66 3 ≠ 0)) ∧
  (∀ w : Descriptor, decode (.d w) = none ↔
    (w.extractLsb' 62 2 = 0 ∨ w.extractLsb' 62 2 = 3 ∨ w.extractLsb' 48 14 ≠ 0)) ∧
  (∀ w : UopCode, decode (.u w) = none ↔ (w = 0 ∨ 9 ≤ w.toNat))

/-- ACK and START are named before REGWR (R102): the decoder answers well-formed terms only. -/
def Obligations.DecodedOperationsAreWellFormed : Prop :=
  ∀ (b : BusWord) (i : Instr), decode b = some i → i.wf = true

/-! ## The step -/

/-- A step runs the operation that the fetched word decodes to, in the state the fetch leaves: for any fetch; for a
host word at the head of the agenda; for the code the sequencer of a lane selects; for the descriptor of the next
item. The agenda is the model's own (log 1). -/
def Obligations.StepRunsTheDecodedOperation : Prop :=
  (∀ (s s' : State) (b : BusWord) (i : Instr),
    fetch s = (.word b, s') → decode b = some i → step s = exec i s') ∧
  (∀ (s : State) (ms : List Move) (w : Request) (i : Instr),
    s.env.agenda = .host w :: ms → decode (.h w) = some i → step s = exec i (popped s ms)) ∧
  (∀ (s : State) (ms : List Move) (l : Nat) (L : Lane) (code : UopCode) (i : Instr),
    s.env.agenda = .lane l :: ms → s.sched.sst = .run → s.lanes[l]? = some L →
    nextUop s.sched.apol L = .issue code → decode (.u code) = some i →
    step s = exec i (withWho (popped s ms) l)) ∧
  (∀ (s : State) (ms : List Move) (choice : Nat) (it : Item) (i : Instr),
    s.env.agenda = .dispatch choice :: ms → dispatchReady s = true → nextItem? s = some it →
    decode (.d (itemWord it)) = some i → step s = exec i (withWho (popped s ms) choice))

/-- Refusal (R152): ERR and no state change at all. -/
def Obligations.RefusedTransactionsChangeNothing : Prop :=
  ∀ (s : State) (ms : List Move) (w : Request), s.env.agenda = .host w :: ms →
    (w.extractLsb' 70 2 = 3 ∨ w.extractLsb' 66 3 ≠ 0 ∨
      (w.extractLsb' 70 2 = 0 ∧
        ((w.extractLsb' 32 34).toNat % 4 ≠ 0 ∨ 0x2C < (w.extractLsb' 32 34).toNat)) ∨
      ((w.extractLsb' 70 2 = 1 ∨ w.extractLsb' 70 2 = 2) ∧
        3 * s.cfg.memPixels ≤ (w.extractLsb' 32 34).toNat) ∨
      (w.extractLsb' 70 2 = 2 ∧ w.getLsbD 69 = true)) →
    step s = .next (answered (popped s ms) .err 0)

/-- What a word on an inner interface does that is no operation (R111): an illegal code raises E_ILLEGAL; any
descriptor at all, an illegal one too, reaches the `DREG` of an idle enabled lane; and LDESC raises E_ILLEGAL on a
descriptor that is no operation. That a word can be put on the inner interfaces from outside is the model's choice
(log 12). -/
def Obligations.IllegalInnerWordsRaiseIllegal : Prop :=
  (∀ (s : State) (ms : List Move) (l : Nat) (L : Lane) (code : UopCode),
    s.env.agenda = .uop l code :: ms → (code = 0 ∨ 9 ≤ code.toNat) → s.sched.sst = .run →
    s.lanes[l]? = some L → step s = .next (faulted (withWho (popped s ms) l) 4)) ∧
  (∀ (s : State) (ms : List Move) (choice : Nat) (d : Descriptor),
    s.env.agenda = .descr choice d :: ms → dispatchReady s = true →
    ∃ l L, l < s.sched.u.toNat ∧ s.lanes[l]? = some L ∧ L.st = .idle ∧
      step s = .next { withWho (popped s ms) choice with
        lanes := s.lanes.set l { L with dreg := d, st := .load }
        sched := { s.sched with next := s.sched.next + 1 } }) ∧
  (∀ (s : State) (L : Lane), actingLane s L → L.st = .load → decode (.d L.dreg) = none →
    exec .ldesc s = .next (faulted s 4))

/-- With an empty agenda the hardware takes one of its own enabled steps (R7, R175, R180, R190): DISPATCH while its
guard holds, JOIN while its guard holds, or the step of a lane that has work. It stays as it is only where none of
these guards holds: outside RUN, or with nothing to dispatch or no lane to take it, nothing to join, and every lane
idle. Which enabled step it takes is a free value, and the agenda is the model's own (log 1, log 2). -/
def Obligations.HardwareTakesOneOfItsEnabledSteps : Prop :=
  ∀ s : State, s.env.agenda = [] →
    (step s = .next s ∧
      (s.sched.sst ≠ .run ∨
        (¬(s.sched.next < s.sched.nitems ∧ ∃ l L, l < s.sched.u.toNat ∧ s.lanes[l]? = some L ∧ L.st = .idle) ∧
          ¬(s.sched.next = s.sched.nitems ∧ s.sched.retired = s.sched.nitems) ∧
          ∀ L ∈ s.lanes, L.st = .idle))) ∨
    ∃ m, step s = step { s with env := { s.env with agenda := [m], draws := s.env.draws + 1 } } ∧
      s.sched.sst = .run ∧
      ((s.sched.next < s.sched.nitems ∧ (∃ l L, l < s.sched.u.toNat ∧ s.lanes[l]? = some L ∧ L.st = .idle) ∧
          ∃ choice, m = .dispatch choice) ∨
        (s.sched.next = s.sched.nitems ∧ s.sched.retired = s.sched.nitems ∧ m = .join) ∨
        ∃ l L, s.lanes[l]? = some L ∧ L.st ≠ .idle ∧ m = .lane l)

/-! ## Host operations -/

/-- REGRD (R153): the value of the register at each of the twelve offsets, ERR at every other offset, and no state
change. -/
def Obligations.RegrdReturnsTheRegister : Prop :=
  ∀ s : State,
    exec (.regrd 0x00) s = .next (answered s .ok 0) ∧
    exec (.regrd 0x04) s = .next (answered s .ok (BitVec.ofNat 32
      (s.host.ecode.toNat * 256 + s.host.wdrop.toNat * 16 + s.host.nopf.toNat * 8
        + (if s.sched.sst = .fault then 4 else 0) + s.host.done.toNat * 2
        + (if s.sched.sst = .run then 1 else 0)))) ∧
    exec (.regrd 0x08) s = .next (answered s .ok (BitVec.ofNat 32 s.host.width.toNat)) ∧
    exec (.regrd 0x0C) s = .next (answered s .ok (BitVec.ofNat 32 s.host.height.toNat)) ∧
    exec (.regrd 0x10) s = .next (answered s .ok s.host.policy) ∧
    exec (.regrd 0x14) s = .next (answered s .ok (BitVec.ofNat 32 (s.host.dyn.toNat * 2 + s.host.par.toNat))) ∧
    exec (.regrd 0x18) s = .next (answered s .ok (BitVec.ofNat 32 s.host.lanesLimit.toNat)) ∧
    exec (.regrd 0x1C) s = .next (answered s .ok (BitVec.ofNat 32 s.host.chunk.toNat)) ∧
    exec (.regrd 0x20) s = .next (answered s .ok (BitVec.ofNat 32 s.host.units.toNat)) ∧
    exec (.regrd 0x24) s = .next (answered s .ok (BitVec.ofNat 32 (s.host.ieErr.toNat * 2 + s.host.ieDone.toNat))) ∧
    (s.cfg.wf → exec (.regrd 0x28) s = .next (answered s .ok (BitVec.ofNat 32
      (s.cfg.nlanes + 16 * 256 + (if s.cfg.magRound = .nearest then 1 else 0) * 65536)))) ∧
    exec (.regrd 0x2C) s = .next (answered s .ok (BitVec.ofNat 32 s.cfg.memPixels)) ∧
    (∀ a : Addr, a.toNat % 4 ≠ 0 ∨ 0x2C < a.toNat → exec (.regrd a) s = .next (answered s .err 0))

/-- REGWR (R154): each register takes its own bits of the value and nothing else changes; CTRL and STATUS have the
effects of START and ACK; RO registers and offsets without a register take nothing. -/
def Obligations.RegwrWritesItsRegister : Prop :=
  ∀ (s : State) (v : Word),
    (v.getLsbD 0 = true → exec (.regwr 0x00 v) s = exec .start s) ∧
    (v.getLsbD 0 = false → exec (.regwr 0x00 v) s = .next (answered s .ok 0)) ∧
    exec (.regwr 0x04 v) s = exec (.ack v) s ∧
    exec (.regwr 0x08 v) s =
      .next (answered { s with host := { s.host with width := BitVec.ofNat 16 v.toNat } } .ok 0) ∧
    exec (.regwr 0x0C v) s =
      .next (answered { s with host := { s.host with height := BitVec.ofNat 16 v.toNat } } .ok 0) ∧
    exec (.regwr 0x10 v) s = .next (answered { s with host := { s.host with policy := v } } .ok 0) ∧
    exec (.regwr 0x14 v) s =
      .next (answered { s with host := { s.host with par := v.getLsbD 0, dyn := v.getLsbD 1 } } .ok 0) ∧
    exec (.regwr 0x18 v) s =
      .next (answered { s with host := { s.host with lanesLimit := BitVec.ofNat 8 v.toNat } } .ok 0) ∧
    exec (.regwr 0x1C v) s =
      .next (answered { s with host := { s.host with chunk := BitVec.ofNat 16 v.toNat } } .ok 0) ∧
    exec (.regwr 0x20 v) s = .next (answered s .ok 0) ∧
    exec (.regwr 0x24 v) s =
      .next (answered { s with host := { s.host with ieDone := v.getLsbD 0, ieErr := v.getLsbD 1 } } .ok 0) ∧
    exec (.regwr 0x28 v) s = .next (answered s .ok 0) ∧
    exec (.regwr 0x2C v) s = .next (answered s .ok 0) ∧
    (∀ a : Addr, a.toNat % 4 ≠ 0 ∨ 0x2C < a.toNat → exec (.regwr a v) s = .next (answered s .err 0))

/-- SAMPRD.I (R155): the stored sample, exact in every SST, and no state change; ERR past the end. -/
def Obligations.SamprdInputReadsTheSample : Prop :=
  ∀ (s : State) (i : Addr),
    (i.toNat < 3 * s.cfg.memPixels →
      exec (.samprdI i) s = .next (answered s .ok (BitVec.ofNat 32 (imemRead s i.toNat).toNat))) ∧
    (3 * s.cfg.memPixels ≤ i.toNat → exec (.samprdI i) s = .next (answered s .err 0))

/-- SAMPWR.I (R156): one cell of IMEM takes bits 7:0 and nothing else changes; dropped with WDROP while
`SST = RUN`; ERR past the end. -/
def Obligations.SampwrInputWritesOneSample : Prop :=
  ∀ (s : State) (i : Addr) (v : Word),
    (i.toNat < 3 * s.cfg.memPixels → s.sched.sst ≠ .run →
      ∃ m, exec (.sampwrI i v) s = .next (answered { s with imem := m } .ok 0) ∧
        ∀ j, imemRead { s with imem := m } j = if j = i.toNat then BitVec.ofNat 8 v.toNat else imemRead s j) ∧
    (i.toNat < 3 * s.cfg.memPixels → s.sched.sst = .run →
      exec (.sampwrI i v) s = .next (answered { s with host := { s.host with wdrop := true } } .ok 0)) ∧
    (3 * s.cfg.memPixels ≤ i.toNat → exec (.sampwrI i v) s = .next (answered s .err 0))

/-- SAMPRD.O (R157): outside a run the value of the cell, which is the value written to it, but for a fault raised
during a run, after which no written value determines it (R267; that it is a free value is the model's choice, log 8),
and which is the same at the next read (R303); some 8-bit value during a run (a free value, log 7); ERR past the end.
No state of the hardware changes (`draws` is the model's counter of free values). -/
def Obligations.SamprdOutputReadsTheSample : Prop :=
  ∀ (s : State) (i : Addr),
    (i.toNat < 3 * s.cfg.memPixels → s.sched.sst ≠ .run →
      exec (.samprdO i) s = .next (answered s .ok (BitVec.ofNat 32 (omemRead s i.toNat).toNat)) ∧
      (∀ v, memGet s.omem i.toNat = some v → ¬(s.sched.sst = .fault ∧ (s.host.ecode = 3 ∨ s.host.ecode = 4)) →
        omemRead s i.toNat = v) ∧
      (s.sched.sst = .fault → s.host.ecode = 3 ∨ s.host.ecode = 4 →
        ∀ m, omemRead { s with omem := m } i.toNat = omemRead s i.toNat) ∧
      ∀ r w, exec (.samprdO i) (answered s r w) =
        .next (answered s .ok (BitVec.ofNat 32 (omemRead s i.toNat).toNat))) ∧
    (i.toNat < 3 * s.cfg.memPixels → s.sched.sst = .run →
      ∃ v : Sample, exec (.samprdO i) s =
        .next (answered { s with env := { s.env with draws := s.env.draws + 1 } } .ok (BitVec.ofNat 32 v.toNat))) ∧
    (3 * s.cfg.memPixels ≤ i.toNat → exec (.samprdO i) s = .next (answered s .err 0))

/-- SAMPWR.O (R158): always refused, no state change, in every SST. -/
def Obligations.SampwrOutputIsAlwaysRefused : Prop :=
  ∀ (s : State) (i : Addr) (v : Word), exec (.sampwrO i v) s = .next (answered s .err 0)

/-- ACK (R159): bit 1 of the mask clears DONE, bit 4 clears WDROP, every other bit is ignored. -/
def Obligations.AckClearsDoneAndWdrop : Prop :=
  ∀ (s : State) (mask : Word), exec (.ack mask) s = .next (answered { s with host := { s.host with
    done := if mask.getLsbD 1 then false else s.host.done
    wdrop := if mask.getLsbD 4 then false else s.host.wdrop } } .ok 0)

/-- START (R160): ignored in FAULT, dropped in RUN, the two shape faults, and everything an accepted START
writes. That a START which raises a fault answers (OK, 0) is the model's choice (DEDUCED, log 9; vector P4), and `draws`
is the model's counter of free values (log 6). -/
def Obligations.StartChecksTheShapeAndStartsTheRun : Prop :=
  ∀ s : State,
    (s.sched.sst = .fault → exec .start s = .next (answered s .ok 0)) ∧
    (s.sched.sst = .run → exec .start s =
      .next (answered { s with host := { s.host with wdrop := true } } .ok 0)) ∧
    (s.sched.sst = .idle → s.host.width = 0 ∨ s.host.height = 0 →
      exec .start s = .next (answered (faulted s 1) .ok 0)) ∧
    (s.sched.sst = .idle → s.host.width ≠ 0 → s.host.height ≠ 0 →
      s.cfg.memPixels < s.host.width.toNat * s.host.height.toNat →
      exec .start s = .next (answered (faulted s 2) .ok 0)) ∧
    (s.sched.sst = .idle → s.host.width ≠ 0 → s.host.height ≠ 0 →
      s.host.width.toNat * s.host.height.toNat ≤ s.cfg.memPixels →
      ∃ (u : BitVec 8) (d : Nat),
        u = BitVec.ofNat 8 (units s.host.par s.host.dyn s.cfg.nlanes s.host.lanesLimit.toNat d) ∧
        exec .start s = .next (answered { s with
          host := { s.host with
            done := false
            nopf := decide (s.host.policy ≠ 1 ∧ s.host.policy ≠ 2)
            units := 0 }
          sched := {
            sst := .run
            aw := s.host.width
            ah := s.host.height
            apol := s.host.policy
            apar := s.host.par
            achunk := s.host.chunk
            u := u
            next := 0
            retired := 0
            nitems := BitVec.ofNat 32
              (nitems s.host.width.toNat s.host.height.toNat s.host.policy s.host.chunk.toNat) }
          env := { s.env with draws := s.env.draws + 1 } } .ok 0))

/-! ## The scheduler -/

/-- `units(PAR, DYN, N)` (R173): 1 for a sequential run, `Umax` without DYN, and with DYN any value of
`1 .. Umax`, each of them for some draw. -/
def Obligations.UnitsAreOneUmaxOrAnyValueBetween : Prop :=
  ∀ nlanes n : Nat, 1 ≤ nlanes →
    (∀ dyn draw, units false dyn nlanes n draw = 1) ∧
    (∀ draw, units true false nlanes n draw = min (max n 1) nlanes) ∧
    (∀ draw, 1 ≤ units true true nlanes n draw ∧ units true true nlanes n draw ≤ min (max n 1) nlanes) ∧
    (∀ v, 1 ≤ v → v ≤ min (max n 1) nlanes → ∃ draw, units true true nlanes n draw = v)

/-- `nitems` is the length of the item list (R171), it is what the formula of R172 gives, and it lies in
`1 .. AW*AH` (R172). -/
def Obligations.NitemsIsTheLengthOfTheItemList : Prop :=
  ∀ (aw ah : Nat) (apol : Word) (achunk : Nat) (ch : Nat → Nat), 1 ≤ aw → 1 ≤ ah →
    (∀ len, ch len = if achunk = 0 then 1 else (len + achunk - 1) / achunk) →
    nitems aw ah apol achunk = (items aw ah apol achunk).length ∧
    nitems aw ah apol achunk =
      (if (apol ≠ 1 ∧ apol ≠ 2) ∨ aw < 3 ∨ ah < 3 then ah * ch aw
       else 2 * ch aw + (ah - 2) * (2 + ch (aw - 2))) ∧
    1 ≤ nitems aw ah apol achunk ∧ nitems aw ah apol achunk ≤ aw * ah

/-- The items partition the image (R90, R171): every pixel lies in exactly one item, and in a CONV item exactly when
the policy is a filter and the pixel is interior; no item reaches outside the image and none is empty. -/
def Obligations.ItemsPartitionTheImage : Prop :=
  ∀ (aw ah : Nat) (apol : Word) (achunk : Nat), 1 ≤ aw → 1 ≤ ah →
    (∀ x y, x < aw → y < ah →
      ∃ (k : Nat) (it : Item), (items aw ah apol achunk)[k]? = some it ∧ itemCovers it x y ∧
        (it.conv = true ↔ ((apol = 1 ∨ apol = 2) ∧ interior aw ah x y = true)) ∧
        ∀ (k' : Nat) (it' : Item), (items aw ah apol achunk)[k']? = some it' → itemCovers it' x y → k' = k) ∧
    (∀ it ∈ items aw ah apol achunk, 1 ≤ it.n ∧ it.y < ah ∧ it.x0 + it.n ≤ aw)

/-- Every descriptor the scheduler produces is well formed (R105). -/
def Obligations.SchedulerDescriptorsAreWellFormed : Prop :=
  ∀ (aw ah : Nat) (apol : Word) (achunk : Nat), 1 ≤ aw → aw ≤ 65535 → 1 ≤ ah → ah ≤ 65535 →
    ∀ it ∈ items aw ah apol achunk,
      DescWellFormed aw ah apol (itemWord it) ∧
      decode (.d (itemWord it)) = some (if it.conv
        then .dispatchConv (BitVec.ofNat 16 it.y) (BitVec.ofNat 16 it.x0) (BitVec.ofNat 16 it.n)
        else .dispatchPass (BitVec.ofNat 16 it.y) (BitVec.ofNat 16 it.x0) (BitVec.ofNat 16 it.n))

/-- DISPATCH (R175 to R177): while the guard holds, an idle enabled lane receives the descriptor, `ST` becomes LOAD
and NEXT counts up, nothing else changes; each idle enabled lane is the one picked for some choice; where the guard
does not hold there is no such step, and that the model's `exec` then changes nothing is the model's choice (DEDUCED,
log 10). That operands may differ from `item(NEXT)` is the model's choice too (log 12). -/
def Obligations.DispatchHandsTheDescriptorToAnIdleLane : Prop :=
  ∀ (s : State) (y x0 n : Coord),
    (s.sched.sst = .run → s.sched.next < s.sched.nitems →
      (∃ l L, l < s.sched.u.toNat ∧ s.lanes[l]? = some L ∧ L.st = .idle) →
      ∃ l L, l < s.sched.u.toNat ∧ s.lanes[l]? = some L ∧ L.st = .idle ∧
        exec (.dispatchConv y x0 n) s = .next { s with
          lanes := s.lanes.set l { L with dreg := 1#2 ++ 0#14 ++ y ++ x0 ++ n, st := .load }
          sched := { s.sched with next := s.sched.next + 1 } } ∧
        exec (.dispatchPass y x0 n) s = .next { s with
          lanes := s.lanes.set l { L with dreg := 2#2 ++ 0#14 ++ y ++ x0 ++ n, st := .load }
          sched := { s.sched with next := s.sched.next + 1 } }) ∧
    (s.sched.sst = .run → s.sched.next < s.sched.nitems →
      ∀ l L, l < s.sched.u.toNat → s.lanes[l]? = some L → L.st = .idle →
        ∃ choice, exec (.dispatchConv y x0 n) (withWho s choice) = .next { withWho s choice with
          lanes := s.lanes.set l { L with dreg := 1#2 ++ 0#14 ++ y ++ x0 ++ n, st := .load }
          sched := { s.sched with next := s.sched.next + 1 } }) ∧
    (s.sched.sst ≠ .run ∨ s.sched.nitems ≤ s.sched.next ∨
        (∀ l L, l < s.sched.u.toNat → s.lanes[l]? = some L → L.st ≠ .idle) →
      exec (.dispatchConv y x0 n) s = .next s ∧ exec (.dispatchPass y x0 n) s = .next s)

/-- JOIN (R180): with its guard, `SST <- IDLE`, DONE set, UNITS = U and nothing else. Without its guard there is no
such step; that a JOIN move then changes nothing but the agenda is the model's choice (DEDUCED, log 10). -/
def Obligations.JoinEndsTheRun : Prop :=
  ∀ (s : State) (ms : List Move), s.env.agenda = .join :: ms →
    (s.sched.sst = .run ∧ s.sched.next = s.sched.nitems ∧ s.sched.retired = s.sched.nitems →
      step s = .next { popped s ms with
        host := { s.host with done := true, units := s.sched.u }
        sched := { s.sched with sst := .idle } }) ∧
    (¬(s.sched.sst = .run ∧ s.sched.next = s.sched.nitems ∧ s.sched.retired = s.sched.nitems) →
      step s = .next (popped s ms))

/-! ## The lane -/

/-- The sequencer (R191), and R265 where APOL is no filter (log 11); and the steps in which it issues nothing: a
waiting lane changes nothing, and where no operation is selected E_ILLEGAL is raised. -/
def Obligations.SequencerSelectsTheNextOperation : Prop :=
  (∀ (s : State) (ms : List Move) (l : Nat) (L : Lane), s.env.agenda = .lane l :: ms → s.sched.sst = .run →
    s.lanes[l]? = some L →
    (nextUop s.sched.apol L = .wait → step s = .next (popped s ms)) ∧
    (nextUop s.sched.apol L = .illegal → step s = .next (faulted (withWho (popped s ms) l) 4))) ∧
  ∀ (apol : Word) (L : Lane),
    (L.st = .idle → nextUop apol L = .wait) ∧
    (L.st = .load → nextUop apol L = .issue 1) ∧
    (L.st = .run → L.rem = 0 → nextUop apol L = .issue 8) ∧
    (L.st = .run → L.rem ≠ 0 → L.kind = .pass → nextUop apol L = .issue 7) ∧
    (L.st = .run → L.rem ≠ 0 → L.kind = .none → nextUop apol L = .illegal) ∧
    (L.st = .run → L.rem ≠ 0 → L.kind = .conv → apol ≠ 1 → apol ≠ 2 → nextUop apol L = .illegal) ∧
    (L.st = .run → L.rem ≠ 0 → L.kind = .conv → apol = 1 ∨ apol = 2 →
      (L.wv.toNat < 3 ∨ L.col.toNat ≠ L.x.toNat + 2 → nextUop apol L = .issue 2) ∧
      (L.wv = 3 → L.col.toNat = L.x.toNat + 2 →
        (L.av = .none → apol = 1 → nextUop apol L = .issue 3) ∧
        (L.av = .none → apol = 2 → nextUop apol L = .issue 4) ∧
        (L.av = .avg → nextUop apol L = .issue 5) ∧
        (L.av = .sob → nextUop apol L = .issue 6)))

/-- No lane takes a step while `SST ≠ RUN`, and a lane that does not exist takes none (R190; log 10). -/
def Obligations.LanesStepOnlyDuringARun : Prop :=
  ∀ (s : State), s.sched.sst ≠ .run ∨ s.lanes[s.env.who]? = none →
    ∀ i ∈ [Instr.ldesc, .wshift, .accAvg, .accSob, .emitAvg, .emitSob, .pass, .retire], exec i s = .next s

/-- LDESC (R193): the fields of the descriptor, the cleared window and accumulators, and the three faults in their
order; nothing else changes. -/
def Obligations.LdescUnpacksTheDescriptor : Prop :=
  ∀ (s : State) (L : Lane), actingLane s L →
    (L.st = .load → L.dreg.extractLsb' 48 14 = 0 →
      (L.dreg.extractLsb' 62 2 = 1 → L.dreg.extractLsb' 16 16 ≠ 0 →
        exec .ldesc s = .next (withLane s { L with
          kind := .conv, y := L.dreg.extractLsb' 32 16, x := L.dreg.extractLsb' 16 16,
          rem := L.dreg.extractLsb' 0 16, col := BitVec.ofNat 16 ((L.dreg.extractLsb' 16 16).toNat - 1),
          wv := 0, av := .none, st := .run })) ∧
      (L.dreg.extractLsb' 62 2 = 2 →
        exec .ldesc s = .next (withLane s { L with
          kind := .pass, y := L.dreg.extractLsb' 32 16, x := L.dreg.extractLsb' 16 16,
          rem := L.dreg.extractLsb' 0 16, col := 0, wv := 0, av := .none, st := .run })) ∧
      (L.dreg.extractLsb' 62 2 = 1 → L.dreg.extractLsb' 16 16 = 0 → exec .ldesc s = .next (faulted s 3))) ∧
    (L.st = .load →
      L.dreg.extractLsb' 62 2 = 0 ∨ L.dreg.extractLsb' 62 2 = 3 ∨ L.dreg.extractLsb' 48 14 ≠ 0 →
      exec .ldesc s = .next (faulted s 4)) ∧
    (L.st ≠ .load → exec .ldesc s = .next (faulted s 4))

/-- WSHIFT (R198): the window moves one column left and takes column COL of rows Y-1 .. Y+1; COL, WV and AV; the two
faults; nothing else changes. -/
def Obligations.WshiftShiftsTheWindow : Prop :=
  ∀ (s : State) (L : Lane), actingLane s L →
    (L.st = .run → L.kind = .conv → L.rem ≠ 0 →
      (1 ≤ L.y.toNat → L.y.toNat + 1 < s.sched.ah.toNat → L.col.toNat < s.sched.aw.toNat →
        s.sched.aw.toNat * s.sched.ah.toNat ≤ s.cfg.memPixels →
        ∃ win : Window,
          exec .wshift s = .next (withLane s { L with
            win := win, col := L.col + 1, wv := BitVec.ofNat 2 (min 3 (L.wv.toNat + 1)), av := .none }) ∧
          ∀ r c : Fin 3, win.at r 0 c = L.win.at r 1 c ∧ win.at r 1 c = L.win.at r 2 c ∧
            win.at r 2 c =
              imemRead s (3 * ((L.y.toNat + r.val - 1) * s.sched.aw.toNat + L.col.toNat) + c.val)) ∧
      (L.y.toNat = 0 ∨ s.sched.ah.toNat ≤ L.y.toNat + 1 ∨ s.sched.aw.toNat ≤ L.col.toNat →
        exec .wshift s = .next (faulted s 3))) ∧
    (¬(L.st = .run ∧ L.kind = .conv ∧ L.rem ≠ 0) → exec .wshift s = .next (faulted s 4))

/-- ACC.AVG (R211): the nine-sample sums, exact, of a centred window; AV; nothing else changes. -/
def Obligations.AccAvgSumsTheWindow : Prop :=
  ∀ (s : State) (L : Lane), actingLane s L →
    (L.st = .run ∧ L.kind = .conv ∧ L.rem ≠ 0 ∧ L.wv = 3 ∧ L.col.toNat = L.x.toNat + 2 →
      ∃ sum : Tri Acc, exec .accAvg s = .next (withLane s { L with sum := sum, av := .avg }) ∧
        ∀ c, (sum.get c).toNat = ∑ r : Fin 3, ∑ j : Fin 3, (L.win.at r j c).toNat) ∧
    (¬(L.st = .run ∧ L.kind = .conv ∧ L.rem ≠ 0 ∧ L.wv = 3 ∧ L.col.toNat = L.x.toNat + 2) →
      exec .accAvg s = .next (faulted s 4))

/-- ACC.SOB (R212): the two kernel sums, exact and signed, of a centred window; AV; nothing else changes. -/
def Obligations.AccSobFormsTheKernelSums : Prop :=
  ∀ (s : State) (L : Lane), actingLane s L →
    (L.st = .run ∧ L.kind = .conv ∧ L.rem ≠ 0 ∧ L.wv = 3 ∧ L.col.toNat = L.x.toNat + 2 →
      ∃ gx gy : Tri Acc, exec .accSob s = .next (withLane s { L with gx := gx, gy := gy, av := .sob }) ∧
        ∀ c,
          (gx.get c).toInt = ∑ r : Fin 3, ∑ j : Fin 3,
            (![![-1, 0, 1], ![-2, 0, 2], ![-1, 0, 1]] : Fin 3 → Fin 3 → Int) r j * ((L.win.at r j c).toNat : Int) ∧
          (gy.get c).toInt = ∑ r : Fin 3, ∑ j : Fin 3,
            (![![-1, -2, -1], ![0, 0, 0], ![1, 2, 1]] : Fin 3 → Fin 3 → Int) r j * ((L.win.at r j c).toNat : Int)) ∧
    (¬(L.st = .run ∧ L.kind = .conv ∧ L.rem ≠ 0 ∧ L.wv = 3 ∧ L.col.toNat = L.x.toNat + 2) →
      exec .accSob s = .next (faulted s 4))

/-- EMIT.AVG (R232): the three truncated means at pixel `(X, Y)`, every other cell of OMEM as before; X, REM and AV;
the two faults; nothing else changes. -/
def Obligations.EmitAvgWritesTheMean : Prop :=
  ∀ (s : State) (L : Lane), actingLane s L →
    (L.st = .run ∧ L.kind = .conv ∧ L.rem ≠ 0 ∧ L.av = .avg →
      (L.x.toNat < s.sched.aw.toNat → L.y.toNat < s.sched.ah.toNat →
        s.sched.aw.toNat * s.sched.ah.toNat ≤ s.cfg.memPixels →
        ∃ m, exec .emitAvg s = .next { withLane s { L with x := L.x + 1, rem := L.rem - 1, av := .none } with omem := m } ∧
          (∀ c : Fin 3, omemRead { s with omem := m } (3 * (L.y.toNat * s.sched.aw.toNat + L.x.toNat) + c.val) =
            BitVec.ofNat 8 (min 255 ((L.sum.get c).toNat / 9))) ∧
          (∀ i, i < 3 * (L.y.toNat * s.sched.aw.toNat + L.x.toNat) ∨
              3 * (L.y.toNat * s.sched.aw.toNat + L.x.toNat) + 3 ≤ i →
            omemRead { s with omem := m } i = omemRead s i)) ∧
      (s.sched.aw.toNat ≤ L.x.toNat ∨ s.sched.ah.toNat ≤ L.y.toNat → exec .emitAvg s = .next (faulted s 3))) ∧
    (¬(L.st = .run ∧ L.kind = .conv ∧ L.rem ≠ 0 ∧ L.av = .avg) → exec .emitAvg s = .next (faulted s 4))

/-- EMIT.SOB (R233): the three clamped gradient magnitudes at pixel `(X, Y)`, every other cell of OMEM as before; X,
REM and AV; the two faults; nothing else changes. -/
def Obligations.EmitSobWritesTheClampedMagnitude : Prop :=
  ∀ (s : State) (L : Lane), actingLane s L →
    (L.st = .run ∧ L.kind = .conv ∧ L.rem ≠ 0 ∧ L.av = .sob →
      (L.x.toNat < s.sched.aw.toNat → L.y.toNat < s.sched.ah.toNat →
        s.sched.aw.toNat * s.sched.ah.toNat ≤ s.cfg.memPixels →
        ∃ m, exec .emitSob s = .next { withLane s { L with x := L.x + 1, rem := L.rem - 1, av := .none } with omem := m } ∧
          (∀ c : Fin 3, omemRead { s with omem := m } (3 * (L.y.toNat * s.sched.aw.toNat + L.x.toNat) + c.val) =
            BitVec.ofNat 8 (min 255 (root s.cfg.magRound
              ((L.gx.get c).toInt ^ 2 + (L.gy.get c).toInt ^ 2).toNat))) ∧
          (∀ i, i < 3 * (L.y.toNat * s.sched.aw.toNat + L.x.toNat) ∨
              3 * (L.y.toNat * s.sched.aw.toNat + L.x.toNat) + 3 ≤ i →
            omemRead { s with omem := m } i = omemRead s i)) ∧
      (s.sched.aw.toNat ≤ L.x.toNat ∨ s.sched.ah.toNat ≤ L.y.toNat → exec .emitSob s = .next (faulted s 3))) ∧
    (¬(L.st = .run ∧ L.kind = .conv ∧ L.rem ≠ 0 ∧ L.av = .sob) → exec .emitSob s = .next (faulted s 4))

/-- PASS (R246): the three samples of pixel `(X, Y)` copied, every other cell of OMEM as before; X and REM; the two
faults; nothing else changes. -/
def Obligations.PassCopiesThePixel : Prop :=
  ∀ (s : State) (L : Lane), actingLane s L →
    (L.st = .run ∧ L.kind = .pass ∧ L.rem ≠ 0 →
      (L.x.toNat < s.sched.aw.toNat → L.y.toNat < s.sched.ah.toNat →
        s.sched.aw.toNat * s.sched.ah.toNat ≤ s.cfg.memPixels →
        ∃ m, exec .pass s = .next { withLane s { L with x := L.x + 1, rem := L.rem - 1 } with omem := m } ∧
          (∀ c : Fin 3, omemRead { s with omem := m } (3 * (L.y.toNat * s.sched.aw.toNat + L.x.toNat) + c.val) =
            imemRead s (3 * (L.y.toNat * s.sched.aw.toNat + L.x.toNat) + c.val)) ∧
          (∀ i, i < 3 * (L.y.toNat * s.sched.aw.toNat + L.x.toNat) ∨
              3 * (L.y.toNat * s.sched.aw.toNat + L.x.toNat) + 3 ≤ i →
            omemRead { s with omem := m } i = omemRead s i)) ∧
      (s.sched.aw.toNat ≤ L.x.toNat ∨ s.sched.ah.toNat ≤ L.y.toNat → exec .pass s = .next (faulted s 3))) ∧
    (¬(L.st = .run ∧ L.kind = .pass ∧ L.rem ≠ 0) → exec .pass s = .next (faulted s 4))

/-- RETIRE (R199): the lane becomes IDLE, RETIRED counts up, the precondition, and nothing else changes. -/
def Obligations.RetireFreesTheLane : Prop :=
  ∀ (s : State) (L : Lane), actingLane s L →
    (L.st = .run ∧ L.rem = 0 →
      exec .retire s = .next { withLane s { L with st := .idle, kind := .none, wv := 0, av := .none } with
        sched := { s.sched with retired := s.sched.retired + 1 } }) ∧
    (¬(L.st = .run ∧ L.rem = 0) → exec .retire s = .next (faulted s 4))

/-- A lane access inside the image to a cell the memory does not have stops the model: its own fault, in states no
run reaches (log 14). -/
def Obligations.LaneAccessPastTheMemoryStops : Prop :=
  ∀ (s : State) (L : Lane), actingLane s L → L.st = .run → L.rem ≠ 0 →
    (L.kind = .conv → 1 ≤ L.y.toNat → L.y.toNat + 1 < s.sched.ah.toNat → L.col.toNat < s.sched.aw.toNat →
      s.cfg.memPixels ≤ (L.y.toNat + 1) * s.sched.aw.toNat + L.col.toNat →
      exec .wshift s = .fault .noSuchCell) ∧
    (L.x.toNat < s.sched.aw.toNat → L.y.toNat < s.sched.ah.toNat →
      s.cfg.memPixels ≤ L.y.toNat * s.sched.aw.toNat + L.x.toNat →
      (L.kind = .conv → L.av = .avg → exec .emitAvg s = .fault .noSuchCell) ∧
      (L.kind = .conv → L.av = .sob → exec .emitSob s = .fault .noSuchCell) ∧
      (L.kind = .pass → exec .pass s = .fault .noSuchCell))

/-! ## Arithmetic -/

/-- The ranges of the accumulators (R214): the sums are stored without loss. -/
def Obligations.AccumulatorsHoldTheExactSums : Prop :=
  ∀ (w : Window) (c : Fin 3),
    boxSum w c ≤ 2295 ∧ (BitVec.ofNat 12 (boxSum w c)).toNat = boxSum w c ∧
    -1020 ≤ kernelSum kx w c ∧ kernelSum kx w c ≤ 1020 ∧
    (BitVec.ofInt 12 (kernelSum kx w c)).toInt = kernelSum kx w c ∧
    -1020 ≤ kernelSum ky w c ∧ kernelSum ky w c ≤ 1020 ∧
    (BitVec.ofInt 12 (kernelSum ky w c)).toInt = kernelSum ky w c

/-- The separable identity (R213): the three column terms, their ranges, and the sums they give. -/
def Obligations.SeparableFormGivesTheSameSums : Prop :=
  ∀ (w : Window) (c : Fin 3) (V1 V2 VD : Fin 3 → Int),
    (∀ j, V1 j = (w.at 0 j c).toNat + (w.at 1 j c).toNat + (w.at 2 j c).toNat) →
    (∀ j, V2 j = (w.at 0 j c).toNat + 2 * (w.at 1 j c).toNat + (w.at 2 j c).toNat) →
    (∀ j, VD j = (w.at 2 j c).toNat - (w.at 0 j c).toNat) →
    (∀ j, 0 ≤ V1 j ∧ V1 j ≤ 765 ∧ 0 ≤ V2 j ∧ V2 j ≤ 1020 ∧ -255 ≤ VD j ∧ VD j ≤ 255) ∧
    (boxSum w c : Int) = V1 0 + V1 1 + V1 2 ∧
    kernelSum kx w c = V2 2 - V2 0 ∧
    kernelSum ky w c = VD 0 + 2 * VD 1 + VD 2

/-- The integer root (R134): TRUNC is the largest `n` with `n*n <= S`; NEAREST is `n` or `n + 1` as the rule says,
and that is the nearest integer to the square root, without ties. TRUNC is this hardware's value. -/
def Obligations.RootIsTheRoundedSquareRoot : Prop :=
  State.reset.cfg.magRound = .trunc ∧
  ∀ S : Nat,
    root .trunc S * root .trunc S ≤ S ∧ (∀ n, n * n ≤ S → n ≤ root .trunc S) ∧
    root .nearest S =
      (if S ≤ root .trunc S * root .trunc S + root .trunc S then root .trunc S else root .trunc S + 1) ∧
    4 * S < (2 * root .nearest S + 1) ^ 2 ∧
    (root .nearest S = 0 ∨ (2 * root .nearest S - 1) ^ 2 < 4 * S)

/-- The clamp (R229): the full value is compared, and only then narrowed; the mean of an accumulator is never
clamped. -/
def Obligations.ClampNeverWraps : Prop :=
  (∀ m : Nat, (clamp8 m).toNat = min 255 m) ∧
  ∀ n : Nat, n ≤ 2295 → div9 n = n / 9 ∧ (clamp8 (div9 n)).toNat = n / 9

/-- Constant images (R142): Average keeps them, Sobel gives 0 in the interior and keeps the border. -/
def Obligations.ConstantImagesAreFixedOrZero : Prop :=
  ∀ (mode : MagRound) (w h : Nat) (v : Fin 3 → Nat) (x y : Nat) (c : Fin 3),
    refApply mode w h 1 (fun _ _ k => v k) x y c = v c ∧
    (interior w h x y = true → refApply mode w h 2 (fun _ _ k => v k) x y c = 0) ∧
    (interior w h x y = false → refApply mode w h 2 (fun _ _ k => v k) x y c = v c)

/-- Channels are independent (R146). -/
def Obligations.ChannelsAreIndependent : Prop :=
  ∀ (mode : MagRound) (w h : Nat) (policy : Word) (I J : Nat → Nat → Fin 3 → Nat) (c : Fin 3),
    (∀ x y, I x y c = J x y c) → ∀ x y, refApply mode w h policy I x y c = refApply mode w h policy J x y c

/-! ## Faults, reset, interrupt -/

/-- FAULT is left by reset only (R266, R268): any other step leaves SST, ECODE, the scheduler, the lanes, and what
every cell of OMEM reads as, specified or not (R303), as they were. -/
def Obligations.FaultIsLeftByResetOnly : Prop :=
  ∀ s t : State, s.sched.sst = .fault → step s = .next t → s.env.agenda.head? ≠ some .reset →
    t.sched = s.sched ∧ t.host.ecode = s.host.ecode ∧ t.lanes = s.lanes ∧ t.omem = s.omem ∧
    ∀ i, omemRead t i = omemRead s i

/-- Fault entry writes ECODE and SST and nothing else; a second one changes nothing (R266, R268). -/
def Obligations.FaultEntryRecordsTheFirstCode : Prop :=
  ∀ (s : State) (code code' : FaultCode), s.sched.sst ≠ .fault →
    raiseFault code s = faulted s (faultNumber code) ∧ faultNumber code ≠ 0 ∧
    raiseFault code' (raiseFault code s) = raiseFault code s

/-- Reset (R290): every value that the table of R63 gives, whatever the state before. That the memories list no
written cell is the model's form of their unspecified content (log 4), and the values of the lane registers that
R63 leaves unspecified (log 5) are not part of the statement. KIND and REM are those of R63 and R290, not of U1
(log 24). -/
def Obligations.ResetLeavesTheResetValues : Prop :=
  ∀ (s : State) (ms : List Move), s.env.agenda = .reset :: ms →
    ∃ t, step s = .next t ∧ t.imem = [] ∧ t.omem = [] ∧ t.cfg = s.cfg ∧ t.env.agenda = ms ∧ irq t = false ∧
      t.host = { width := 0, height := 0, policy := 0, par := false, dyn := false,
                 lanesLimit := BitVec.ofNat 8 s.cfg.nlanes, chunk := 0, units := 0, ieDone := false,
                 ieErr := false, done := false, nopf := false, wdrop := false, ecode := 0 } ∧
      t.sched = { sst := .idle, aw := 0, ah := 0, apol := 0, apar := false, achunk := 0, u := 0, next := 0,
                  retired := 0, nitems := 0 } ∧
      t.lanes.length = s.cfg.nlanes ∧
      ∀ L ∈ t.lanes, L.st = .idle ∧ L.kind = .none ∧ L.av = .none ∧ L.wv = 0 ∧ L.rem = 0

/-- The interrupt output (R61). That a write of IEN changes the enables it reads at once, in RUN and FAULT too, is the
model's choice against the table of R81 (log 25), and no clause of this statement. -/
def Obligations.IrqIsDoneOrErrEnabled : Prop :=
  ∀ s : State, irq s = true ↔
    ((s.host.done = true ∧ s.host.ieDone = true) ∨ (s.sched.sst = .fault ∧ s.host.ieErr = true))

/-! ## Who writes what -/

/-- Only the lanes' EMIT.AVG, EMIT.SOB and PASS write a cell of OMEM (what a cell reads as after a fault raised during
a run is another matter, log 8), only SAMPWR.I writes IMEM, only REGWR writes a
configuration register, and no operation changes a parameter (R21, R22, R139). -/
def Obligations.MemoriesAndRegistersHaveTheirWriters : Prop :=
  ∀ (i : Instr) (s t : State), exec i s = .next t →
    (i ≠ .emitAvg → i ≠ .emitSob → i ≠ .pass → t.omem = s.omem) ∧
    ((∀ a v, i ≠ .sampwrI a v) → t.imem = s.imem) ∧
    ((∀ a v, i ≠ .regwr a v) →
      t.host.width = s.host.width ∧ t.host.height = s.host.height ∧ t.host.policy = s.host.policy ∧
      t.host.par = s.host.par ∧ t.host.dyn = s.host.dyn ∧ t.host.lanesLimit = s.host.lanesLimit ∧
      t.host.chunk = s.host.chunk ∧ t.host.ieDone = s.host.ieDone ∧ t.host.ieErr = s.host.ieErr) ∧
    t.cfg = s.cfg ∧ t.lanes.length = s.lanes.length

/-- A lane's DREG is written by DISPATCH only, WIN by WSHIFT only, SUM by ACC.AVG only, GX and GY by ACC.SOB only, Y
by LDESC only (R52, R54, R55, R57). -/
def Obligations.LaneRegistersHaveTheirWriters : Prop :=
  ∀ (i : Instr) (s t : State) (l : Nat) (L L' : Lane), exec i s = .next t →
    s.lanes[l]? = some L → t.lanes[l]? = some L' →
    ((∀ y x0 n, i ≠ .dispatchConv y x0 n ∧ i ≠ .dispatchPass y x0 n) → L'.dreg = L.dreg) ∧
    (i ≠ .wshift → L'.win = L.win) ∧
    (i ≠ .accAvg → L'.sum = L.sum) ∧
    (i ≠ .accSob → L'.gx = L.gx ∧ L'.gy = L.gy) ∧
    (i ≠ .ldesc → L'.y = L.y)

/-- During a run IMEM and the latched configuration are constant, whatever agent steps, until reset (R45, R82 (a),
R87). -/
def Obligations.RunConfigurationIsConstant : Prop :=
  ∀ s t : State, s.sched.sst = .run → step s = .next t → s.env.agenda.head? ≠ some .reset →
    t.imem = s.imem ∧ t.env.epoch = s.env.epoch ∧ t.sched.aw = s.sched.aw ∧ t.sched.ah = s.sched.ah ∧
    t.sched.apol = s.sched.apol ∧ t.sched.apar = s.sched.apar ∧ t.sched.achunk = s.sched.achunk ∧
    t.sched.u = s.sched.u ∧ t.sched.nitems = s.sched.nitems

/-! ## Invariants and the contract of a run -/

/-- The invariants hold after reset: for every implementation the one of every machine, and both at
`State.reset`, which has the parameters of log 3. -/
def Obligations.InvariantsHoldAfterReset : Prop :=
  (∀ (cfg : Config) (env : Env), cfg.wf → MachineInv (State.resetWith cfg env)) ∧ RunInv State.reset

/-- Every step keeps the machine's invariant (R64 (a) to (d) and the canonical form of the memories), whatever word
is put on an interface. -/
def Obligations.EveryStepKeepsTheMachineInvariant : Prop :=
  ∀ s t : State, MachineInv s → step s = .next t → MachineInv t

/-- From every state of the machine's invariant the machine takes a step: the model's own fault is not reached. -/
def Obligations.TheMachineNeverStops : Prop :=
  ∀ s : State, MachineInv s → ∃ t, step s = .next t

/-- Every step of hardware that follows the spec keeps the invariant of a run: R64 (e) in every state, and during a
run lanes track their items (R196) and every pixel is done, pending or owed (R82, R90). -/
def Obligations.EveryStepKeepsTheRunInvariant : Prop :=
  ∀ s t : State, RunInv s → step s = .next t → RunInv t

/-- Hardware that follows the spec raises no fault during a run: E_BOUNDS and E_ILLEGAL are unreachable (R73, R186,
R260). -/
def Obligations.NoFaultDuringARun : Prop :=
  ∀ s : State, RunInv s → s.sched.sst = .run → ∃ t, step s = .next t ∧ t.sched.sst ≠ .fault

/-- JOIN leaves the reference image in OMEM (R84, R136, R137 (a), (c)). -/
def Obligations.JoinLeavesTheReferenceImage : Prop :=
  ∀ s t : State, RunInv s → s.sched.sst = .run → step s = .next t → t.sched.sst = .idle →
    s.env.agenda.head? ≠ some .reset → RunResult t

/-- Left alone, the hardware comes one step closer to JOIN at every step, whichever enabled agent takes it (R182,
R186). That a step with an empty agenda takes an enabled step is the model's choice of log 21. -/
def Obligations.EveryStepOfARunMakesProgress : Prop :=
  ∀ s : State, RunInv s → s.sched.sst = .run → s.env.agenda = [] →
    ∃ t, step s = .next t ∧ t.env.agenda = [] ∧
      ((t.sched.sst = .run ∧ stepsLeft t + 1 = stepsLeft s) ∨ (t.sched.sst = .idle ∧ stepsLeft s = 1))

/-- The contract of a run (R137, R182, R186): from an accepted START, left alone, whichever enabled agent steps and
whichever lane is picked, the machine reaches JOIN after exactly the steps of R182, with the reference image in OMEM
and everything else as R137 says. The exact count rests on the model's choice of log 21: a step with an empty agenda
takes an enabled step. -/
def Obligations.AcceptedStartRunsToTheReferenceImage : Prop :=
  ∀ s : State, RunInv s → s.sched.sst = .idle → s.env.agenda = [.host 0x200000000000000001#72] →
    s.host.width ≠ 0 → s.host.height ≠ 0 → s.host.width.toNat * s.host.height.toNat ≤ s.cfg.memPixels →
    ∃ t, Host.Core.run Sys2Proof.core
        (1 + runSteps s.host.width.toNat s.host.height.toNat s.host.policy s.host.chunk.toNat) s = .next t ∧
      t.sched.sst = .idle ∧ t.host.done = true ∧ t.host.units = t.sched.u ∧
      (∀ x y, x < s.host.width.toNat → y < s.host.height.toNat → ∀ c : Fin 3,
        (omemRead t (3 * (y * s.host.width.toNat + x) + c.val)).toNat =
          refApply s.cfg.magRound s.host.width.toNat s.host.height.toNat s.host.policy
            (imageAt s s.host.width.toNat) x y c) ∧
      (∀ i, 3 * (s.host.width.toNat * s.host.height.toNat) ≤ i → omemRead t i = omemRead s i) ∧
      t.imem = s.imem ∧
      t.host = { s.host with
        done := true, nopf := decide (s.host.policy ≠ 1 ∧ s.host.policy ≠ 2), units := t.sched.u }

/-- The determinism law (R138, R140): two runs on the same image with the same shape and policy leave the same bytes
in OMEM, whatever MODE, LANES, CHUNK, the number of lanes and the schedule. That both end after their counted steps
rests on the model's choice of log 21: a step with an empty agenda takes an enabled step. -/
def Obligations.SequentialAndParallelRunsAgree : Prop :=
  ∀ s s' : State, RunInv s → RunInv s' → s.sched.sst = .idle → s'.sched.sst = .idle →
    s.env.agenda = [.host 0x200000000000000001#72] → s'.env.agenda = [.host 0x200000000000000001#72] →
    s.host.width ≠ 0 → s.host.height ≠ 0 →
    s.host.width.toNat * s.host.height.toNat ≤ s.cfg.memPixels →
    s.host.width.toNat * s.host.height.toNat ≤ s'.cfg.memPixels →
    s'.host.width = s.host.width → s'.host.height = s.host.height → s'.host.policy = s.host.policy →
    s'.cfg.magRound = s.cfg.magRound →
    (∀ i, i < 3 * (s.host.width.toNat * s.host.height.toNat) → imemRead s' i = imemRead s i) →
    ∃ t t',
      Host.Core.run Sys2Proof.core
        (1 + runSteps s.host.width.toNat s.host.height.toNat s.host.policy s.host.chunk.toNat) s = .next t ∧
      Host.Core.run Sys2Proof.core
        (1 + runSteps s.host.width.toNat s.host.height.toNat s.host.policy s'.host.chunk.toNat) s' = .next t' ∧
      t.host.done = true ∧ t'.host.done = true ∧
      ∀ i, i < 3 * (s.host.width.toNat * s.host.height.toNat) → omemRead t' i = omemRead t i

/-! ## Words with ignored bits -/

/-- Every word with `zero = 0` of each row of R102 decodes to that row's operation with its `addr` and `wdata` fields,
whatever stands in the bits the operation ignores (`wdata` of a read, `wdata[31:1]` of START, R101); and every
descriptor with `zero = 0` to the operation of its `kind` with its `y`, `x0` and `n` (R104). -/
def Obligations.EveryWordDecodesByItsRow : Prop :=
  (∀ (space : BitVec 2) (we : BitVec 1) (addr : Addr) (wdata : Word),
    (space = 0 → we = 0 → decode (.h (space ++ we ++ 0#3 ++ addr ++ wdata)) = some (.regrd addr)) ∧
    (space = 0 → we = 1 → addr = 0x04 → decode (.h (space ++ we ++ 0#3 ++ addr ++ wdata)) = some (.ack wdata)) ∧
    (space = 0 → we = 1 → addr = 0x00 → wdata.getLsbD 0 = true →
      decode (.h (space ++ we ++ 0#3 ++ addr ++ wdata)) = some .start) ∧
    (space = 0 → we = 1 → addr ≠ 0x04 → ¬(addr = 0x00 ∧ wdata.getLsbD 0 = true) →
      decode (.h (space ++ we ++ 0#3 ++ addr ++ wdata)) = some (.regwr addr wdata)) ∧
    (space = 1 → we = 0 → decode (.h (space ++ we ++ 0#3 ++ addr ++ wdata)) = some (.samprdI addr)) ∧
    (space = 1 → we = 1 → decode (.h (space ++ we ++ 0#3 ++ addr ++ wdata)) = some (.sampwrI addr wdata)) ∧
    (space = 2 → we = 0 → decode (.h (space ++ we ++ 0#3 ++ addr ++ wdata)) = some (.samprdO addr)) ∧
    (space = 2 → we = 1 → decode (.h (space ++ we ++ 0#3 ++ addr ++ wdata)) = some (.sampwrO addr wdata))) ∧
  (∀ y x0 n : Coord,
    decode (.d (1#2 ++ 0#14 ++ y ++ x0 ++ n)) = some (.dispatchConv y x0 n) ∧
    decode (.d (2#2 ++ 0#14 ++ y ++ x0 ++ n)) = some (.dispatchPass y x0 n))
end

