-- ==== Sys2Proof/Laws/State.lean ====
section
/-! SUPPORT. One lemma per field per named update of `State`, true by rfl, so that no later proof unfolds a record
update. -/

namespace Sys2Proof.Machine

@[simp] theorem respondOk_cfg (v : Word) (s : State) : (respondOk v s).cfg = s.cfg := rfl
@[simp] theorem respondOk_imem (v : Word) (s : State) : (respondOk v s).imem = s.imem := rfl
@[simp] theorem respondOk_omem (v : Word) (s : State) : (respondOk v s).omem = s.omem := rfl
@[simp] theorem respondOk_host (v : Word) (s : State) : (respondOk v s).host = s.host := rfl
@[simp] theorem respondOk_sched (v : Word) (s : State) : (respondOk v s).sched = s.sched := rfl
@[simp] theorem respondOk_lanes (v : Word) (s : State) : (respondOk v s).lanes = s.lanes := rfl
@[simp] theorem respondOk_env (v : Word) (s : State) : (respondOk v s).env = { s.env with resp := some ⟨.ok, v⟩ } := rfl

@[simp] theorem respondErr_cfg (s : State) : (respondErr s).cfg = s.cfg := rfl
@[simp] theorem respondErr_imem (s : State) : (respondErr s).imem = s.imem := rfl
@[simp] theorem respondErr_omem (s : State) : (respondErr s).omem = s.omem := rfl
@[simp] theorem respondErr_host (s : State) : (respondErr s).host = s.host := rfl
@[simp] theorem respondErr_sched (s : State) : (respondErr s).sched = s.sched := rfl
@[simp] theorem respondErr_lanes (s : State) : (respondErr s).lanes = s.lanes := rfl
@[simp] theorem respondErr_env (s : State) : (respondErr s).env = { s.env with resp := some ⟨.err, 0⟩ } := rfl

@[simp] theorem drawn_cfg (s : State) : (drawn s).cfg = s.cfg := rfl
@[simp] theorem drawn_imem (s : State) : (drawn s).imem = s.imem := rfl
@[simp] theorem drawn_omem (s : State) : (drawn s).omem = s.omem := rfl
@[simp] theorem drawn_host (s : State) : (drawn s).host = s.host := rfl
@[simp] theorem drawn_sched (s : State) : (drawn s).sched = s.sched := rfl
@[simp] theorem drawn_lanes (s : State) : (drawn s).lanes = s.lanes := rfl
@[simp] theorem drawn_env (s : State) : (drawn s).env = { s.env with draws := s.env.draws + 1 } := rfl

@[simp] theorem imemWrite_cfg (s : State) (i : Nat) (v : Sample) : (imemWrite s i v).cfg = s.cfg := rfl
@[simp] theorem imemWrite_imem (s : State) (i : Nat) (v : Sample) : (imemWrite s i v).imem = memPut s.imem i v := rfl
@[simp] theorem imemWrite_omem (s : State) (i : Nat) (v : Sample) : (imemWrite s i v).omem = s.omem := rfl
@[simp] theorem imemWrite_host (s : State) (i : Nat) (v : Sample) : (imemWrite s i v).host = s.host := rfl
@[simp] theorem imemWrite_sched (s : State) (i : Nat) (v : Sample) : (imemWrite s i v).sched = s.sched := rfl
@[simp] theorem imemWrite_lanes (s : State) (i : Nat) (v : Sample) : (imemWrite s i v).lanes = s.lanes := rfl
@[simp] theorem imemWrite_env (s : State) (i : Nat) (v : Sample) : (imemWrite s i v).env = s.env := rfl

@[simp] theorem omemWritePixel_cfg (s : State) (p : Nat) (v : Tri Sample) : (omemWritePixel s p v).cfg = s.cfg := rfl
@[simp] theorem omemWritePixel_imem (s : State) (p : Nat) (v : Tri Sample) : (omemWritePixel s p v).imem = s.imem := rfl
@[simp] theorem omemWritePixel_omem (s : State) (p : Nat) (v : Tri Sample) : (omemWritePixel s p v).omem = memPut (memPut (memPut s.omem (3 * p) v.i0) (3 * p + 1) v.i1) (3 * p + 2) v.i2 := rfl
@[simp] theorem omemWritePixel_host (s : State) (p : Nat) (v : Tri Sample) : (omemWritePixel s p v).host = s.host := rfl
@[simp] theorem omemWritePixel_sched (s : State) (p : Nat) (v : Tri Sample) : (omemWritePixel s p v).sched = s.sched := rfl
@[simp] theorem omemWritePixel_lanes (s : State) (p : Nat) (v : Tri Sample) : (omemWritePixel s p v).lanes = s.lanes := rfl
@[simp] theorem omemWritePixel_env (s : State) (p : Nat) (v : Tri Sample) : (omemWritePixel s p v).env = s.env := rfl

@[simp] theorem setLane_cfg (s : State) (l : Nat) (L : Lane) : (setLane s l L).cfg = s.cfg := rfl
@[simp] theorem setLane_imem (s : State) (l : Nat) (L : Lane) : (setLane s l L).imem = s.imem := rfl
@[simp] theorem setLane_omem (s : State) (l : Nat) (L : Lane) : (setLane s l L).omem = s.omem := rfl
@[simp] theorem setLane_host (s : State) (l : Nat) (L : Lane) : (setLane s l L).host = s.host := rfl
@[simp] theorem setLane_sched (s : State) (l : Nat) (L : Lane) : (setLane s l L).sched = s.sched := rfl
@[simp] theorem setLane_lanes (s : State) (l : Nat) (L : Lane) : (setLane s l L).lanes = s.lanes.set l L := rfl
@[simp] theorem setLane_env (s : State) (l : Nat) (L : Lane) : (setLane s l L).env = s.env := rfl

@[simp] theorem setWdrop_cfg (s : State) : (setWdrop s).cfg = s.cfg := rfl
@[simp] theorem setWdrop_imem (s : State) : (setWdrop s).imem = s.imem := rfl
@[simp] theorem setWdrop_omem (s : State) : (setWdrop s).omem = s.omem := rfl
@[simp] theorem setWdrop_host (s : State) : (setWdrop s).host = { s.host with wdrop := true } := rfl
@[simp] theorem setWdrop_sched (s : State) : (setWdrop s).sched = s.sched := rfl
@[simp] theorem setWdrop_lanes (s : State) : (setWdrop s).lanes = s.lanes := rfl
@[simp] theorem setWdrop_env (s : State) : (setWdrop s).env = s.env := rfl

@[simp] theorem withWho_cfg (s : State) (l : Nat) : (withWho s l).cfg = s.cfg := rfl
@[simp] theorem withWho_imem (s : State) (l : Nat) : (withWho s l).imem = s.imem := rfl
@[simp] theorem withWho_omem (s : State) (l : Nat) : (withWho s l).omem = s.omem := rfl
@[simp] theorem withWho_host (s : State) (l : Nat) : (withWho s l).host = s.host := rfl
@[simp] theorem withWho_sched (s : State) (l : Nat) : (withWho s l).sched = s.sched := rfl
@[simp] theorem withWho_lanes (s : State) (l : Nat) : (withWho s l).lanes = s.lanes := rfl
@[simp] theorem withWho_env (s : State) (l : Nat) : (withWho s l).env = { s.env with who := l } := rfl

@[simp] theorem answered_cfg (s : State) (r : Resp) (v : Word) : (answered s r v).cfg = s.cfg := rfl
@[simp] theorem answered_imem (s : State) (r : Resp) (v : Word) : (answered s r v).imem = s.imem := rfl
@[simp] theorem answered_omem (s : State) (r : Resp) (v : Word) : (answered s r v).omem = s.omem := rfl
@[simp] theorem answered_host (s : State) (r : Resp) (v : Word) : (answered s r v).host = s.host := rfl
@[simp] theorem answered_sched (s : State) (r : Resp) (v : Word) : (answered s r v).sched = s.sched := rfl
@[simp] theorem answered_lanes (s : State) (r : Resp) (v : Word) : (answered s r v).lanes = s.lanes := rfl
@[simp] theorem answered_env (s : State) (r : Resp) (v : Word) : (answered s r v).env = { s.env with resp := some ⟨r, v⟩ } := rfl

@[simp] theorem faulted_cfg (s : State) (code : BitVec 4) : (faulted s code).cfg = s.cfg := rfl
@[simp] theorem faulted_imem (s : State) (code : BitVec 4) : (faulted s code).imem = s.imem := rfl
@[simp] theorem faulted_omem (s : State) (code : BitVec 4) : (faulted s code).omem = s.omem := rfl
@[simp] theorem faulted_host (s : State) (code : BitVec 4) : (faulted s code).host = { s.host with ecode := code } := rfl
@[simp] theorem faulted_sched (s : State) (code : BitVec 4) : (faulted s code).sched = { s.sched with sst := .fault } := rfl
@[simp] theorem faulted_lanes (s : State) (code : BitVec 4) : (faulted s code).lanes = s.lanes := rfl
@[simp] theorem faulted_env (s : State) (code : BitVec 4) : (faulted s code).env = s.env := rfl

@[simp] theorem withLane_cfg (s : State) (L : Lane) : (withLane s L).cfg = s.cfg := rfl
@[simp] theorem withLane_imem (s : State) (L : Lane) : (withLane s L).imem = s.imem := rfl
@[simp] theorem withLane_omem (s : State) (L : Lane) : (withLane s L).omem = s.omem := rfl
@[simp] theorem withLane_host (s : State) (L : Lane) : (withLane s L).host = s.host := rfl
@[simp] theorem withLane_sched (s : State) (L : Lane) : (withLane s L).sched = s.sched := rfl
@[simp] theorem withLane_lanes (s : State) (L : Lane) : (withLane s L).lanes = s.lanes.set s.env.who L := rfl
@[simp] theorem withLane_env (s : State) (L : Lane) : (withLane s L).env = s.env := rfl

@[simp] theorem popped_cfg (s : State) (ms : List Move) : (popped s ms).cfg = s.cfg := rfl
@[simp] theorem popped_imem (s : State) (ms : List Move) : (popped s ms).imem = s.imem := rfl
@[simp] theorem popped_omem (s : State) (ms : List Move) : (popped s ms).omem = s.omem := rfl
@[simp] theorem popped_host (s : State) (ms : List Move) : (popped s ms).host = s.host := rfl
@[simp] theorem popped_sched (s : State) (ms : List Move) : (popped s ms).sched = s.sched := rfl
@[simp] theorem popped_lanes (s : State) (ms : List Move) : (popped s ms).lanes = s.lanes := rfl
@[simp] theorem popped_env (s : State) (ms : List Move) : (popped s ms).env = { s.env with agenda := ms } := rfl

@[simp] theorem ackEffects_cfg (mask : Word) (s : State) : (ackEffects mask s).cfg = s.cfg := rfl
@[simp] theorem ackEffects_imem (mask : Word) (s : State) : (ackEffects mask s).imem = s.imem := rfl
@[simp] theorem ackEffects_omem (mask : Word) (s : State) : (ackEffects mask s).omem = s.omem := rfl
@[simp] theorem ackEffects_host (mask : Word) (s : State) : (ackEffects mask s).host = { s.host with done := s.host.done && !mask.getLsbD 1, wdrop := s.host.wdrop && !mask.getLsbD 4 } := rfl
@[simp] theorem ackEffects_sched (mask : Word) (s : State) : (ackEffects mask s).sched = s.sched := rfl
@[simp] theorem ackEffects_lanes (mask : Word) (s : State) : (ackEffects mask s).lanes = s.lanes := rfl
@[simp] theorem ackEffects_env (mask : Word) (s : State) : (ackEffects mask s).env = s.env := rfl

end Sys2Proof.Machine
end

