-- ==== Sys2Proof/Laws/Memory.lean ====
section
/-! SUPPORT. The laws of the sample memories: a read after a write, and the canonical form that every memory
operation keeps. -/

namespace Sys2Proof.Machine

/-- A read after a write: the written cell holds the value, every other cell what it held. -/
theorem memGet_memPut (m : Memory) (a : Nat) (v : Sample) (b : Nat) :
    memGet (memPut m a v) b = if b = a then some v else memGet m b := by
  induction m with
  | nil => by_cases h : b = a <;> simp [memPut, memGet, h]
  | cons cell m ih =>
    obtain ⟨k, w⟩ := cell
    unfold memPut
    split
    · by_cases h : b = a <;> simp [memGet, h]
    · split
      · subst a
        by_cases h : b = k <;> simp [memGet, h]
      · rename_i hne
        by_cases h : b = k
        · subst h
          have : b ≠ a := fun e => hne e.symm
          simp [memGet, this]
        · simp only [memGet, if_neg h, ih]

/-- The canonical form as a chain of rising addresses. -/
theorem memory_wf_cons (a : Host.Cell) (m : Memory) :
    Memory.wf (a :: m) = true ↔ (∀ b ∈ m.head?, a.1 < b.1) ∧ Memory.wf m = true := by
  cases m <;> simp [Memory.wf]

/-- The first cell after a write is the written one or was the first before. -/
theorem memPut_head? (m : Memory) (a : Nat) (v : Sample) :
    ∀ c ∈ (memPut m a v).head?, c.1 = a ∨ c ∈ m.head? := by
  intro c hc
  cases m with
  | nil => simp [memPut] at hc; left; rw [← hc]
  | cons cell m =>
    obtain ⟨k, w⟩ := cell
    unfold memPut at hc
    split at hc
    · simp at hc; left; rw [← hc]
    · split at hc
      · simp at hc; left; rw [← hc]
      · simp at hc; right; simp [hc]

/-- A write keeps the canonical form. -/
theorem memPut_wf (m : Memory) (a : Nat) (v : Sample) (h : Memory.wf m = true) : Memory.wf (memPut m a v) = true := by
  induction m with
  | nil => rfl
  | cons cell m ih =>
    obtain ⟨k, w⟩ := cell
    have hm := (memory_wf_cons _ _).1 h
    unfold memPut
    split
    · rename_i hlt
      exact (memory_wf_cons _ _).2 ⟨by simpa using hlt, h⟩
    · split
      · subst a
        exact (memory_wf_cons _ _).2 ⟨hm.1, hm.2⟩
      · refine (memory_wf_cons _ _).2 ⟨?_, ih hm.2⟩
        intro b hb
        rcases memPut_head? m a v b hb with hb | hb
        · simp only [hb]; omega
        · exact hm.1 b hb

/-- A write to a cell of the memory keeps the memory within its size. -/
theorem memPut_within (m : Memory) (a : Nat) (v : Sample) (n : Nat) (h : Memory.within m n) (ha : a < n) :
    Memory.within (memPut m a v) n := by
  induction m with
  | nil => intro c hc; simp [memPut] at hc; rw [hc]; exact ha
  | cons cell m ih =>
    obtain ⟨k, w⟩ := cell
    have hk : k < n := h (k, w) (by simp)
    have hm : Memory.within m n := fun c hc => h c (by simp [hc])
    unfold memPut
    split
    · intro c hc
      rcases List.mem_cons.1 hc with rfl | hc
      · exact ha
      · exact h c hc
    · split
      · intro c hc
        rcases List.mem_cons.1 hc with rfl | hc
        · exact ha
        · exact hm c hc
      · intro c hc
        rcases List.mem_cons.1 hc with rfl | hc
        · exact hk
        · exact ih hm c hc

/-- A host write of IMEM keeps the canonical form. -/
theorem imemWrite_wf (s : State) (i : Nat) (v : Sample) (h : Memory.wf s.imem = true) :
    Memory.wf (imemWrite s i v).imem = true := memPut_wf _ _ _ h

/-- A lane's write of a pixel keeps the canonical form. -/
theorem omemWritePixel_wf (s : State) (p : Nat) (v : Tri Sample) (h : Memory.wf s.omem = true) :
    Memory.wf (omemWritePixel s p v).omem = true :=
  memPut_wf _ _ _ (memPut_wf _ _ _ (memPut_wf _ _ _ h))

/-- Reset leaves both memories in the canonical form, whatever the parameters. -/
theorem resetWith_memories_wf (cfg : Config) (env : Env) :
    Memory.wf (State.resetWith cfg env).imem = true ∧ Memory.wf (State.resetWith cfg env).omem = true := ⟨rfl, rfl⟩

/-- The memories of `State.reset` are in the canonical form. -/
theorem reset_memories_wf : Memory.wf State.reset.imem = true ∧ Memory.wf State.reset.omem = true := ⟨rfl, rfl⟩

/-- A read of IMEM after a host write. -/
theorem imemRead_imemWrite (s : State) (i : Nat) (v : Sample) (j : Nat) :
    imemRead (imemWrite s i v) j = if j = i then v else imemRead s j := by
  by_cases h : j = i <;> simp [imemRead, memGet_memPut, h]

/-- Outside FAULT no fault has been raised during a run. -/
theorem midRunFault_of_ne_fault (s : State) (h : s.sched.sst ≠ .fault) : midRunFault s = false := by
  simp [midRunFault, h]

/-- When a fault has been raised during a run (R260, R267). -/
theorem midRunFault_iff (s : State) :
    midRunFault s = true ↔ s.sched.sst = .fault ∧ (s.host.ecode = 3 ∨ s.host.ecode = 4) := by
  simp [midRunFault]

/-- A lane's write of a pixel is no fault entry. -/
@[simp] theorem midRunFault_omemWritePixel (s : State) (p : Nat) (v : Tri Sample) :
    midRunFault (omemWritePixel s p v) = midRunFault s := rfl

/-- OMEM after a fault raised during a run: any value in every cell, whatever has been written (R267; log 8). -/
theorem omemRead_of_midRunFault (s : State) (i : Nat) (h : midRunFault s = true) :
    omemRead s i = Config.omemAfterFault s.env.epoch i := if_pos h

/-- OMEM otherwise: the written value, or what an unwritten cell holds (R303; log 4). -/
theorem omemRead_of_not_midRunFault (s : State) (i : Nat) (h : midRunFault s = false) :
    omemRead s i = (memGet s.omem i).getD (Config.omemUnwritten s.env.epoch i) := by
  simp [omemRead, h]

/-- A read of OMEM after a lane's write of a pixel: the three samples of the pixel, and every other cell as it
was. -/
theorem omemRead_omemWritePixel (s : State) (p : Nat) (v : Tri Sample) (j : Nat) (hs : midRunFault s = false) :
    omemRead (omemWritePixel s p v) j =
      if j = 3 * p then v.i0 else if j = 3 * p + 1 then v.i1 else if j = 3 * p + 2 then v.i2 else omemRead s j := by
  rw [omemRead_of_not_midRunFault s j hs, omemRead_of_not_midRunFault (omemWritePixel s p v) j hs]
  simp only [omemWritePixel_omem, omemWritePixel_env, memGet_memPut]
  by_cases h0 : j = 3 * p
  · subst h0; simp
  · by_cases h1 : j = 3 * p + 1
    · subst h1; simp
    · by_cases h2 : j = 3 * p + 2
      · subst h2; simp
      · simp [h0, h1, h2]

/-- The three samples a lane has written to a pixel. -/
theorem omemRead_omemWritePixel_channel (s : State) (p : Nat) (v : Tri Sample) (c : Fin 3)
    (hs : midRunFault s = false) : omemRead (omemWritePixel s p v) (3 * p + c.val) = v.get c := by
  rw [omemRead_omemWritePixel _ _ _ _ hs]
  match c with
  | 0 => simp [Tri.get]
  | 1 => simp [Tri.get]
  | 2 => simp [Tri.get]

/-- Every cell outside the pixel a lane has written. -/
theorem omemRead_omemWritePixel_other (s : State) (p : Nat) (v : Tri Sample) (j : Nat)
    (h : ¬(3 * p ≤ j ∧ j < 3 * p + 3)) : omemRead (omemWritePixel s p v) j = omemRead s j := by
  cases hs : midRunFault s with
  | true =>
    rw [omemRead_of_midRunFault s j hs, omemRead_of_midRunFault (omemWritePixel s p v) j hs]
    rfl
  | false => rw [omemRead_omemWritePixel _ _ _ _ hs, if_neg (by omega), if_neg (by omega), if_neg (by omega)]

end Sys2Proof.Machine
end

