-- ==== Sys2Proof/Laws/Word.lean ====
section
/-! SUPPORT. The laws of the three-fold index. -/

namespace Sys2Proof

@[simp] theorem tri_get_of {α : Type} (f : Fin 3 → α) (i : Fin 3) : (Tri.of f).get i = f i := by
  match i with
  | 0 => rfl
  | 1 => rfl
  | 2 => rfl

@[simp] theorem tri_get_const {α : Type} (a : α) (i : Fin 3) : (Tri.const a).get i = a := by
  match i with
  | 0 => rfl
  | 1 => rfl
  | 2 => rfl

@[simp] theorem tri_get_zero {α : Type} (t : Tri α) : t.get 0 = t.i0 := rfl
@[simp] theorem tri_get_one {α : Type} (t : Tri α) : t.get 1 = t.i1 := rfl
@[simp] theorem tri_get_two {α : Type} (t : Tri α) : t.get 2 = t.i2 := rfl

/-- Two triples are equal when they agree at every index. -/
theorem tri_ext {α : Type} (t u : Tri α) (h : ∀ i, t.get i = u.get i) : t = u := by
  obtain ⟨a, b, c⟩ := t
  obtain ⟨d, e, f⟩ := u
  have h0 := h 0
  have h1 := h 1
  have h2 := h 2
  simp only [Tri.get] at h0 h1 h2
  rw [h0, h1, h2]

end Sys2Proof
end

