-- ==== Sys2Proof/Laws/Ops.lean ====
section
/-! SUPPORT. For each shared operation, everything it can do, said once: later proofs cite these and do not unfold
the operations. -/

namespace Sys2Proof.Machine

/-! ## Responses, fault entry, reset -/

theorem respondOk_eq_answered (v : Word) (s : State) : respondOk v s = answered s .ok v := rfl

theorem respondErr_eq_answered (s : State) : respondErr s = answered s .err 0 := rfl

theorem setLane_eq_withLane (s : State) (L : Lane) : setLane s s.env.who L = withLane s L := rfl

/-- Fault entry from a state that is not in FAULT (R266). -/
theorem raiseFault_of_ne_fault (code : FaultCode) (s : State) (h : s.sched.sst ≠ .fault) :
    raiseFault code s = faulted s (faultNumber code) := if_neg h

/-- In FAULT a fault changes nothing (R268). -/
theorem raiseFault_of_fault (code : FaultCode) (s : State) (h : s.sched.sst = .fault) : raiseFault code s = s :=
  if_pos h

/-- Everything fault entry can do (R266). -/
theorem raiseFault_cases (code : FaultCode) (s : State) :
    (s.sched.sst = .fault ∧ raiseFault code s = s) ∨
      (s.sched.sst ≠ .fault ∧ raiseFault code s = faulted s (faultNumber code)) := by
  by_cases h : s.sched.sst = .fault
  · exact .inl ⟨h, raiseFault_of_fault code s h⟩
  · exact .inr ⟨h, raiseFault_of_ne_fault code s h⟩

/-- No fault has code 0 (R260). -/
theorem faultNumber_ne_zero (code : FaultCode) : faultNumber code ≠ 0 := by cases code <;> decide

/-- The codes are 1 to 4 (R260). -/
theorem faultNumber_le_four (code : FaultCode) : faultNumber code ≤ 4 := by cases code <;> decide

/-! ## The lane step -/

/-- The acting lane steps (R190). -/
theorem laneStep_acting (f : Lane → Result) (s : State) (L : Lane) (h : actingLane s L) : laneStep f s = f L := by
  simp [laneStep, h.1, h.2]

/-- No lane steps while `SST ≠ RUN` (R190). -/
theorem laneStep_frozen (f : Lane → Result) (s : State) (h : s.sched.sst ≠ .run) : laneStep f s = .next s :=
  if_neg h

/-- Everything the lane step can do. -/
theorem laneStep_cases (f : Lane → Result) (s : State) :
    (∃ L, actingLane s L ∧ laneStep f s = f L) ∨ laneStep f s = .next s := by
  by_cases h : s.sched.sst = .run
  · cases hl : s.lanes[s.env.who]? with
    | none => right; simp [laneStep, h, hl]
    | some L => exact .inl ⟨L, ⟨h, hl⟩, laneStep_acting f s L ⟨h, hl⟩⟩
  · exact .inr (laneStep_frozen f s h)

/-- Everything the writing part of EMIT.AVG, EMIT.SOB and PASS can do (R232, R233, R246). -/
theorem writeLanePixel_cases (s : State) (L L' : Lane) (v : Tri Sample) :
    (L.x.toNat < s.sched.aw.toNat ∧ L.y.toNat < s.sched.ah.toNat ∧ lanePixel s L < s.cfg.memPixels ∧
        writeLanePixel s L L' v = .next (withLane (omemWritePixel s (lanePixel s L) v) L')) ∨
      (L.x.toNat < s.sched.aw.toNat ∧ L.y.toNat < s.sched.ah.toNat ∧ s.cfg.memPixels ≤ lanePixel s L ∧
        writeLanePixel s L L' v = .fault .noSuchCell) ∨
      ((s.sched.aw.toNat ≤ L.x.toNat ∨ s.sched.ah.toNat ≤ L.y.toNat) ∧
        writeLanePixel s L L' v = .next (raiseFault .bounds s)) := by
  unfold writeLanePixel
  by_cases hb : pixelInBounds s L = true
  · have hb' := hb
    simp only [pixelInBounds, Bool.and_eq_true, decide_eq_true_eq] at hb'
    by_cases he : pixelExists s (lanePixel s L) = true
    · left
      have he' := he
      simp only [pixelExists, decide_eq_true_eq] at he'
      exact ⟨hb'.1, hb'.2, he', by rw [if_pos hb, if_pos he]; rfl⟩
    · right; left
      have he' := he
      simp only [pixelExists, decide_eq_true_eq, not_lt] at he'
      exact ⟨hb'.1, hb'.2, he', by rw [if_pos hb, if_neg he]⟩
  · right; right
    refine ⟨?_, by rw [if_neg hb]⟩
    simp only [pixelInBounds, Bool.and_eq_true, decide_eq_true_eq] at hb
    omega

/-- A pixel of an image that fits the memories has its samples in them (R73). -/
theorem pixelNumber_lt (aw ah x y m : Nat) (hx : x < aw) (hy : y < ah) (hm : aw * ah ≤ m) : y * aw + x < m := by
  have h1 : (y + 1) * aw ≤ ah * aw := Nat.mul_le_mul_right aw hy
  have h2 : (y + 1) * aw = y * aw + aw := by ring
  have h3 : ah * aw = aw * ah := Nat.mul_comm ah aw
  omega

/-! ## The scheduler -/

/-- A lane is idle when its record says so. -/
theorem laneIdle_iff (s : State) (l : Nat) :
    laneIdle s l = true ↔ ∃ L, s.lanes[l]? = some L ∧ L.st = .idle := by
  unfold laneIdle
  cases s.lanes[l]? <;> simp

/-- The idle enabled lanes (R175). -/
theorem mem_idleLanes (s : State) (l : Nat) :
    l ∈ idleLanes s ↔ l < s.sched.u.toNat ∧ ∃ L, s.lanes[l]? = some L ∧ L.st = .idle := by
  simp [idleLanes, laneIdle_iff]

/-- The guard of DISPATCH (R175). -/
theorem dispatchReady_iff (s : State) :
    dispatchReady s = true ↔ s.sched.sst = .run ∧ s.sched.next < s.sched.nitems ∧ idleLanes s ≠ [] := by
  simp only [dispatchReady, Bool.and_eq_true, decide_eq_true_eq, Bool.not_eq_true', List.isEmpty_eq_false_iff,
    and_assoc]

/-- Where some enabled lane is idle, the choice picks one. -/
theorem pickedLane_some (s : State) (h : idleLanes s ≠ []) : ∃ l ∈ idleLanes s, pickedLane? s = some l := by
  have hlen : 0 < (idleLanes s).length := List.length_pos_iff.2 h
  have hlt := Nat.mod_lt s.env.who hlen
  exact ⟨_, List.getElem_mem hlt, by unfold pickedLane?; exact List.getElem?_eq_getElem hlt⟩

/-- Everything DISPATCH can do with a descriptor (R175): deliver it to an idle enabled lane, or, where its guard
does not hold, nothing. -/
theorem deliver_cases (w : Descriptor) (s : State) :
    (dispatchReady s = true ∧ ∃ l L, pickedLane? s = some l ∧ l < s.sched.u.toNat ∧ s.lanes[l]? = some L ∧
        L.st = .idle ∧ deliver w s = .next { setLane s l { L with dreg := w, st := .load } with
          sched := { s.sched with next := s.sched.next + 1 } }) ∨
      (dispatchReady s = false ∧ deliver w s = .next s) := by
  by_cases h : dispatchReady s = true
  · left
    obtain ⟨l, hl, hp⟩ := pickedLane_some s ((dispatchReady_iff s).1 h).2.2
    obtain ⟨hu, L, hL, hst⟩ := (mem_idleLanes s l).1 hl
    exact ⟨h, l, L, hp, hu, hL, hst, by simp [deliver, h, hp, hL]⟩
  · right
    have h' : dispatchReady s = false := by simpa using h
    exact ⟨h', by simp [deliver, h']⟩

/-- The guard of JOIN (R180). -/
theorem joinReady_iff (s : State) :
    joinReady s = true ↔
      s.sched.sst = .run ∧ s.sched.next = s.sched.nitems ∧ s.sched.retired = s.sched.nitems := by
  simp only [joinReady, Bool.and_eq_true, decide_eq_true_eq, and_assoc]

/-- Everything JOIN can do (R180). -/
theorem joinStep_cases (s : State) :
    (joinReady s = true ∧ joinStep s = { s with
        host := { s.host with done := true, units := s.sched.u }
        sched := { s.sched with sst := .idle } }) ∨
      (joinReady s = false ∧ joinStep s = s) := by
  by_cases h : joinReady s = true
  · exact .inl ⟨h, if_pos h⟩
  · exact .inr ⟨by simpa using h, if_neg h⟩

/-! ## START -/

/-- Everything START can do (R160). -/
theorem startEffects_cases (s : State) :
    (s.sched.sst = .fault ∧ startEffects s = s) ∨ (s.sched.sst = .run ∧ startEffects s = setWdrop s) ∨
      (∃ code, s.sched.sst = .idle ∧ startFault? s = some code ∧ startEffects s = faulted s (faultNumber code)) ∨
      (s.sched.sst = .idle ∧ startFault? s = none ∧ startEffects s = startRun s) := by
  unfold startEffects
  cases h : s.sched.sst with
  | fault => simp
  | run => simp
  | idle =>
    cases hf : startFault? s with
    | none => simp
    | some code =>
      have : s.sched.sst ≠ .fault := by rw [h]; simp
      simp [raiseFault_of_ne_fault code s this]

/-! ## Guards and bounds -/

/-- The two filters (R35). -/
theorem isFilter_iff (policy : Word) : isFilter policy = true ↔ policy = 1 ∨ policy = 2 := by
  simp [isFilter]

/-- A pixel that the memories hold (R73). -/
theorem pixelExists_iff (s : State) (p : Nat) : pixelExists s p = true ↔ p < s.cfg.memPixels := by
  simp [pixelExists]

/-- A sample that the memories hold (R152). -/
theorem cellExists_iff (s : State) (i : Addr) : cellExists s i = true ↔ i.toNat < 3 * s.cfg.memPixels := by
  rw [cellExists, decide_eq_true_eq, cellCount]

/-- The bounds of WSHIFT (R198). -/
theorem shiftInBounds_iff (s : State) (L : Lane) :
    shiftInBounds s L = true ↔
      1 ≤ L.y.toNat ∧ L.y.toNat + 1 < s.sched.ah.toNat ∧ L.col.toNat < s.sched.aw.toNat := by
  simp only [shiftInBounds, Bool.and_eq_true, decide_eq_true_eq, and_assoc]

/-- The window is centred on column `X` (R196). -/
theorem colAtCentre_iff (L : Lane) : colAtCentre L = true ↔ L.col.toNat = L.x.toNat + 2 := by
  simp [colAtCentre]

/-- The kinds a descriptor can name (R104, R109). -/
theorem kindOfField_cases (k : BitVec 2) :
    (k = 1 ∧ kindOfField k = some .conv) ∨ (k = 2 ∧ kindOfField k = some .pass) ∨
      ((k = 0 ∨ k = 3) ∧ kindOfField k = none) := by
  revert k; decide

/-- A busy lane has a record that is not idle. -/
theorem laneBusy_iff (s : State) (l : Nat) :
    laneBusy s l = true ↔ ∃ L, s.lanes[l]? = some L ∧ L.st ≠ .idle := by
  unfold laneBusy
  cases s.lanes[l]? <;> simp

/-! ## The window -/

/-- A full window is the window of a lane with `WV = 3` (R56). -/
theorem fullWindow_eq_some (L : Lane) (w : Window) : fullWindow L = some w ↔ L.wv = 3 ∧ L.win = w := by
  unfold fullWindow
  by_cases h : L.wv = 3#2 <;> simp [h]

/-- The precondition WSHIFT, ACC and EMIT share. -/
theorem convInProgress_iff (L : Lane) : convInProgress L = true ↔ L.st = .run ∧ L.kind = .conv ∧ L.rem ≠ 0 := by
  simp only [convInProgress, Bool.and_eq_true, decide_eq_true_eq, and_assoc]

/-- The precondition of PASS. -/
theorem passInProgress_iff (L : Lane) : passInProgress L = true ↔ L.st = .run ∧ L.kind = .pass ∧ L.rem ≠ 0 := by
  simp only [passInProgress, Bool.and_eq_true, decide_eq_true_eq, and_assoc]

/-- The precondition of ACC.AVG and ACC.SOB (R211): the window is centred (R196). -/
theorem centredWindow_eq_some (L : Lane) (w : Window) :
    centredWindow? L = some w ↔
      L.st = .run ∧ L.kind = .conv ∧ L.rem ≠ 0 ∧ L.wv = 3 ∧ L.col.toNat = L.x.toNat + 2 ∧ L.win = w := by
  unfold centredWindow?
  by_cases h : (convInProgress L && colAtCentre L) = true
  · have h' := h
    simp only [Bool.and_eq_true, convInProgress_iff, colAtCentre, decide_eq_true_eq] at h'
    rw [if_pos h, fullWindow_eq_some]
    tauto
  · rw [if_neg h]
    simp only [Bool.and_eq_true, convInProgress_iff, colAtCentre, decide_eq_true_eq] at h
    simp only [reduceCtorEq, false_iff]
    tauto

/-- A register in a valid column holds its value, every other one none (R56). -/
theorem windowValue_full (L : Lane) (h : L.wv = 3) (r j c : Fin 3) : windowValue L r j c = some (L.win.at r j c) := by
  simp [windowValue, columnValid, h]

/-- The shifted window (R198): the old columns 1 and 2 move left, column `COL` of rows `Y-1 .. Y+1` enters. -/
theorem shiftWindow_at (s : State) (L : Lane) (r c : Fin 3) :
    (shiftWindow s L).at r 0 c = L.win.at r 1 c ∧ (shiftWindow s L).at r 1 c = L.win.at r 2 c ∧
      (shiftWindow s L).at r 2 c =
        imemRead s (3 * ((L.y.toNat + r.val - 1) * s.sched.aw.toNat + L.col.toNat) + c.val) := by
  refine ⟨?_, ?_, ?_⟩ <;> simp [shiftWindow, shiftRow, Window.at, imemPixel, pixelNumber]

/-! ## Fetch -/

/-- With a move on the agenda, it is the next (log 1). -/
theorem fetch_agenda (s : State) (m : Move) (ms : List Move) (h : s.env.agenda = m :: ms) :
    fetch s = issue m (popped s ms) := by
  simp [fetch, takeMove, h, popped]

/-- A host word on the agenda. -/
theorem fetch_host (s : State) (w : Request) (ms : List Move) (h : s.env.agenda = .host w :: ms) :
    fetch s = (.word (.h w), popped s ms) := by rw [fetch_agenda s _ _ h]; rfl

/-- The machine has nothing to do by itself outside RUN (R190, R291). -/
theorem fetch_idle (s : State) (h : s.env.agenda = []) (hs : s.sched.sst ≠ .run) : fetch s = (.idle, s) := by
  simp [fetch, takeMove, h, enabledMoves, hs]

end Sys2Proof.Machine
end

