-- ==== Sys2Proof/Laws/PerInstr.lean ====
section
/-! SUPPORT. Statements about every operation, one lemma per constructor. -/

namespace Sys2Proof.Laws

/-- A word on its interface shows the fixed bits of a table row: the width tells the format, and the bits the mask
names are those of the match (R102, R104, R107). -/
def showsRow (b : BusWord) (width matchBits mask : Nat) : Prop :=
  match b with
  | .h w => width = 72 ∧ w &&& BitVec.ofNat 72 mask = BitVec.ofNat 72 matchBits
  | .d w => width = 64 ∧ w &&& BitVec.ofNat 64 mask = BitVec.ofNat 64 matchBits
  | .u w => width = 4 ∧ w &&& BitVec.ofNat 4 mask = BitVec.ofNat 4 matchBits

/-- Masking five concatenated fields masks each of them. -/
theorem append_and_append {a b c d e : Nat} (x1 y1 : BitVec a) (x2 y2 : BitVec b) (x3 y3 : BitVec c)
    (x4 y4 : BitVec d) (x5 y5 : BitVec e) :
    (x1 ++ x2 ++ x3 ++ x4 ++ x5) &&& (y1 ++ y2 ++ y3 ++ y4 ++ y5) =
      (x1 &&& y1) ++ (x2 &&& y2) ++ (x3 &&& y3) ++ (x4 &&& y4) ++ (x5 &&& y5) := by
  simp only [BitVec.and_append]

/-- A mask that names `space`, `we` and `zero`, and parts `ma` of `addr` and `md` of `wdata` (R102). -/
theorem hostWord_and (space : BitVec 2) (we : BitVec 1) (addr ma : Addr) (wdata md : Word) (mask : Request)
    (h : mask = 3#2 ++ 1#1 ++ 7#3 ++ ma ++ md) :
    hostWord space we addr wdata &&& mask = hostWord space we (addr &&& ma) (wdata &&& md) := by
  have h2 : space &&& 3#2 = space := BitVec.and_allOnes
  have h1 : we &&& 1#1 = we := BitVec.and_allOnes
  have this := append_and_append space 3#2 we 1#1 0#3 7#3 addr ma wdata md
  rw [h2, h1, BitVec.zero_and] at this
  rw [h]
  exact this

/-- The mask of format H that names `space`, `we` and `zero` only. -/
theorem hostWord_row (space : BitVec 2) (we : BitVec 1) (addr : Addr) (wdata : Word) :
    hostWord space we addr wdata &&& 0xFC0000000000000000#72 = hostWord space we 0 0 :=
  (hostWord_and space we addr 0#34 wdata 0#32 _ (by decide)).trans (by rw [BitVec.and_zero, BitVec.and_zero]; rfl)

/-- The mask of format D (R104). -/
theorem descWord_row (kind : BitVec 2) (y x0 n : Coord) :
    descWord kind y x0 n &&& 0xFFFF000000000000#64 = descWord kind 0 0 0 := by
  have h2 : kind &&& 3#2 = kind := BitVec.and_allOnes
  have this := append_and_append kind 3#2 0#14 0x3FFF#14 y 0#16 x0 0#16 n 0#16
  rw [h2, BitVec.zero_and, BitVec.and_zero, BitVec.and_zero, BitVec.and_zero] at this
  exact this

namespace TableRow

/-- The word of an operation shows the fixed bits of its row of spec/opcode_table.json. -/
def Statement (i : Instr) : Prop :=
  match i with
  | .regrd _ => showsRow (encode i) 72 0x000000000000000000 0xFC0000000000000000
  | .regwr _ _ => showsRow (encode i) 72 0x200000000000000000 0xFC0000000000000000
  | .samprdI _ => showsRow (encode i) 72 0x400000000000000000 0xFC0000000000000000
  | .sampwrI _ _ => showsRow (encode i) 72 0x600000000000000000 0xFC0000000000000000
  | .samprdO _ => showsRow (encode i) 72 0x800000000000000000 0xFC0000000000000000
  | .sampwrO _ _ => showsRow (encode i) 72 0xA00000000000000000 0xFC0000000000000000
  | .ack _ => showsRow (encode i) 72 0x200000000400000000 0xFFFFFFFFFF00000000
  | .start => showsRow (encode i) 72 0x200000000000000001 0xFFFFFFFFFF00000001
  | .dispatchConv _ _ _ => showsRow (encode i) 64 0x4000000000000000 0xFFFF000000000000
  | .dispatchPass _ _ _ => showsRow (encode i) 64 0x8000000000000000 0xFFFF000000000000
  | .ldesc => showsRow (encode i) 4 0x1 0xF
  | .wshift => showsRow (encode i) 4 0x2 0xF
  | .accAvg => showsRow (encode i) 4 0x3 0xF
  | .accSob => showsRow (encode i) 4 0x4 0xF
  | .emitAvg => showsRow (encode i) 4 0x5 0xF
  | .emitSob => showsRow (encode i) 4 0x6 0xF
  | .pass => showsRow (encode i) 4 0x7 0xF
  | .retire => showsRow (encode i) 4 0x8 0xF

theorem regrd (addr : Addr) : Statement (.regrd addr) :=
  ⟨rfl, (hostWord_row 0 0 addr 0).trans (by decide)⟩
theorem regwr (addr : Addr) (value : Word) : Statement (.regwr addr value) :=
  ⟨rfl, (hostWord_row 0 1 addr value).trans (by decide)⟩
theorem samprdI (index : Addr) : Statement (.samprdI index) :=
  ⟨rfl, (hostWord_row 1 0 index 0).trans (by decide)⟩
theorem sampwrI (index : Addr) (value : Word) : Statement (.sampwrI index value) :=
  ⟨rfl, (hostWord_row 1 1 index value).trans (by decide)⟩
theorem samprdO (index : Addr) : Statement (.samprdO index) :=
  ⟨rfl, (hostWord_row 2 0 index 0).trans (by decide)⟩
theorem sampwrO (index : Addr) (value : Word) : Statement (.sampwrO index value) :=
  ⟨rfl, (hostWord_row 2 1 index value).trans (by decide)⟩
theorem ack (mask : Word) : Statement (.ack mask) :=
  ⟨rfl, (hostWord_and 0 1 0x04 0x3FFFFFFFF#34 mask 0#32 0xFFFFFFFFFF00000000#72 (by decide)).trans
    (by rw [BitVec.and_zero]; decide)⟩
theorem start : Statement .start :=
  ⟨rfl, by decide⟩
theorem dispatchConv (y : Coord) (x0 : Coord) (n : Coord) : Statement (.dispatchConv y x0 n) :=
  ⟨rfl, (descWord_row 1 y x0 n).trans (by decide)⟩
theorem dispatchPass (y : Coord) (x0 : Coord) (n : Coord) : Statement (.dispatchPass y x0 n) :=
  ⟨rfl, (descWord_row 2 y x0 n).trans (by decide)⟩
theorem ldesc : Statement .ldesc :=
  ⟨rfl, by decide⟩
theorem wshift : Statement .wshift :=
  ⟨rfl, by decide⟩
theorem accAvg : Statement .accAvg :=
  ⟨rfl, by decide⟩
theorem accSob : Statement .accSob :=
  ⟨rfl, by decide⟩
theorem emitAvg : Statement .emitAvg :=
  ⟨rfl, by decide⟩
theorem emitSob : Statement .emitSob :=
  ⟨rfl, by decide⟩
theorem pass : Statement .pass :=
  ⟨rfl, by decide⟩
theorem retire : Statement .retire :=
  ⟨rfl, by decide⟩

end TableRow

end Sys2Proof.Laws
end

