-- ==== Sys2Proof/Tests/Slice0.lean ====
section
/-! SUPPORT. Tests: the smoke test of `Instr.wf`, one word of every constructor written out from 30_encoding.md,
single steps with the values of 95_test_vectors.md, and for every statement with hypotheses a state and operands that
meet them (the witnesses). -/

open Sys2Proof Sys2Proof.Machine

namespace Sys2Proof.Tests

/-! ## Well-formed terms (R102) -/

/-- A write of STATUS is ACK, never REGWR. -/
theorem test_wf_refuses_ack_form : Instr.wf (.regwr 0x04 2) = false := by decide

/-- A write of CTRL with bit 0 set is START, never REGWR; the other bits do not matter. -/
theorem test_wf_refuses_start_form : Instr.wf (.regwr 0x00 0xFFFFFFFF) = false := by decide

/-- A write of CTRL with bit 0 clear stays a REGWR, and so does a write of POLICY. -/
theorem test_wf_keeps_other_regwr : Instr.wf (.regwr 0x00 2) = true ∧ Instr.wf (.regwr 0x10 2) = true := by decide

/-! ## Words written out field by field: space 2, we 1, zero 3, addr 34, wdata 32 bits (R101, R102) -/

theorem test_decode_regrd :
    decode (.h (0b00#2 ++ 0b0#1 ++ 0b000#3 ++ 0x000000004#34 ++ 0xFFFFFFFF#32)) = some (.regrd 0x04) := by decide

theorem test_decode_regwr :
    decode (.h (0b00#2 ++ 0b1#1 ++ 0b000#3 ++ 0x000000010#34 ++ 0x00000002#32)) = some (.regwr 0x10 2) := by decide

theorem test_decode_regwr_highest_address_bit :
    decode (.h (0b00#2 ++ 0b1#1 ++ 0b000#3 ++ 0x200000004#34 ++ 0x00000002#32)) =
      some (.regwr 0x200000004 2) := by decide

theorem test_decode_samprdI :
    decode (.h (0b01#2 ++ 0b0#1 ++ 0b000#3 ++ 0x000000024#34 ++ 0x00000000#32)) = some (.samprdI 36) := by decide

theorem test_decode_sampwrI :
    decode (.h (0b01#2 ++ 0b1#1 ++ 0b000#3 ++ 0x3FFFFFFFF#34 ++ 0x000000FF#32)) =
      some (.sampwrI 0x3FFFFFFFF 255) := by decide

theorem test_decode_samprdO :
    decode (.h (0b10#2 ++ 0b0#1 ++ 0b000#3 ++ 0x000000012#34 ++ 0x00000000#32)) = some (.samprdO 18) := by decide

theorem test_decode_sampwrO :
    decode (.h (0b10#2 ++ 0b1#1 ++ 0b000#3 ++ 0x000000000#34 ++ 0x00000007#32)) = some (.sampwrO 0 7) := by decide

theorem test_decode_ack :
    decode (.h (0b00#2 ++ 0b1#1 ++ 0b000#3 ++ 0x000000004#34 ++ 0xFFFFFFFF#32)) = some (.ack 0xFFFFFFFF) := by
  decide

theorem test_decode_start :
    decode (.h (0b00#2 ++ 0b1#1 ++ 0b000#3 ++ 0x000000000#34 ++ 0x80000001#32)) = some .start := by decide

/-- Format D: kind 2, zero 14, y 16, x0 16, n 16 bits (R104). -/
theorem test_decode_dispatchConv :
    decode (.d (0b01#2 ++ 0#14 ++ 0x0003#16 ++ 0x0001#16 ++ 0x0002#16)) = some (.dispatchConv 3 1 2) := by decide

theorem test_decode_dispatchPass :
    decode (.d (0b10#2 ++ 0#14 ++ 0x0004#16 ++ 0x0002#16 ++ 0xFFFF#16)) = some (.dispatchPass 4 2 0xFFFF) := by
  decide

/-- Format U: the eight codes (R107). -/
theorem test_decode_ldesc : decode (.u 0b0001#4) = some .ldesc := by decide
theorem test_decode_wshift : decode (.u 0b0010#4) = some .wshift := by decide
theorem test_decode_accAvg : decode (.u 0b0011#4) = some .accAvg := by decide
theorem test_decode_accSob : decode (.u 0b0100#4) = some .accSob := by decide
theorem test_decode_emitAvg : decode (.u 0b0101#4) = some .emitAvg := by decide
theorem test_decode_emitSob : decode (.u 0b0110#4) = some .emitSob := by decide
theorem test_decode_pass : decode (.u 0b0111#4) = some .pass := by decide
theorem test_decode_retire : decode (.u 0b1000#4) = some .retire := by decide

/-- Reserved words are no operation (R111). -/
theorem test_decode_reserved :
    decode (.h 0xC00000000000000000#72) = none ∧ decode (.h 0x040000000000000000#72) = none ∧
    decode (.d 0x0000000000000001#64) = none ∧ decode (.d 0xC000000000000001#64) = none ∧
    decode (.d 0x4001000000010001#64) = none ∧ decode (.u 0#4) = none ∧ decode (.u 9#4) = none ∧
    decode (.u 15#4) = none := by decide

/-- The encoder writes the words of 95_test_vectors.md. -/
theorem test_encode_words :
    encode (.regwr 0x10 2) = .h 0x200000001000000002#72 ∧ encode (.samprdI 36) = .h 0x400000002400000000#72 ∧
    encode .start = .h 0x200000000000000001#72 ∧ encode (.dispatchConv 1 1 3) = .d 0x4000000100010003#64 ∧
    encode .retire = .u 8#4 := by decide

/-! ## Small states -/

/-- The next state of an outcome has a property. -/
def nextIs (r : Result) (p : State → Bool) : Bool :=
  match r with
  | .next t => p t
  | .fault _ => false
  | .refused _ => false

/-- Samples from index 0 on. -/
def samples (l : List Nat) : Memory := l.zipIdx.map fun v => (v.2, BitVec.ofNat 8 v.1)

/-- Image G of vector V7, 4 by 3. -/
def imageG : Memory :=
  samples [11, 16, 31, 18, 26, 44, 39, 50, 71, 74, 88, 112, 24, 29, 44, 60, 68, 86, 110, 121, 142, 174, 188, 212,
    63, 68, 83, 128, 136, 154, 207, 218, 239, 44, 58, 82]

/-- Three samples. -/
def px (a b c : Nat) : Tri Sample := ⟨BitVec.ofNat 8 a, BitVec.ofNat 8 b, BitVec.ofNat 8 c⟩

/-- The window of image G centred on `(1, 1)`. -/
def windowG : Window :=
  ⟨⟨px 11 16 31, px 18 26 44, px 39 50 71⟩, ⟨px 24 29 44, px 60 68 86, px 110 121 142⟩,
    ⟨px 63 68 83, px 128 136 154, px 207 218 239⟩⟩

/-- A lane at pixel `(1, 1)` of image G with the window centred. -/
def convLane : Lane :=
  { Lane.reset with st := .run, kind := .conv, y := 1, x := 1, col := 3, rem := 2, wv := 3, win := windowG }

/-- The same after ACC.AVG (V7: 660, 732, 894). -/
def avgLane : Lane := { convLane with sum := ⟨660, 732, 894⟩, av := .avg }

/-- The same after ACC.SOB (V7: 344, 368, 392 and 440). -/
def sobLane : Lane := { convLane with gx := ⟨344, 368, 392⟩, gy := ⟨440, 440, 440⟩, av := .sob }

/-- A lane with the passthrough pixel `(3, 1)` of image G left. -/
def passLane : Lane := { Lane.reset with st := .run, kind := .pass, y := 1, x := 3, rem := 1 }

/-- A lane that has received a descriptor. -/
def loadLane (d : Descriptor) : Lane := { Lane.reset with st := .load, dreg := d }

/-- A lane at the end of its item. -/
def endLane : Lane := { convLane with rem := 0, x := 3, col := 4 }

/-- A run on image G with this policy, lane 0 as given and the acting one, three other lanes idle. -/
def running (policy : Word) (L : Lane) : State :=
  { State.reset with
    imem := imageG
    sched := { sst := .run, aw := 4, ah := 3, apol := policy, apar := false, achunk := 0, u := 1, next := 3,
               retired := 2, nitems := 5 }
    lanes := [L, .reset, .reset, .reset] }

/-- Image G configured and the machine idle. -/
def configured (policy : Word) : State :=
  { State.reset with imem := imageG, host := { HostRegs.reset .vectors with width := 4, height := 3, policy := policy } }

/-- The machine in FAULT with E_SHAPE (P4). -/
def inFault : State :=
  { State.reset with host := { HostRegs.reset .vectors with ecode := 1, ieErr := true }
                     sched := { Sched.reset with sst := .fault } }

/-- With these moves to be made. -/
def withAgenda (s : State) (ms : List Move) : State := { s with env := { s.env with agenda := ms } }

/-! ## Host operations -/

/-- P4: STATUS of the machine in FAULT is 0x00000104, and the interrupt output is 1. -/
theorem test_regrd_status_in_fault :
    nextIs (exec (.regrd 0x04) inFault) (fun t => decide (t.env.resp = some ⟨.ok, 0x00000104⟩) && irq t) = true := by
  decide

/-- R41, R42: CAP and MEMCAP of the parameters of the vectors. -/
theorem test_regrd_cap :
    nextIs (exec (.regrd 0x28) State.reset) (fun t => decide (t.env.resp = some ⟨.ok, 0x00001004⟩)) = true ∧
    nextIs (exec (.regrd 0x2C) State.reset) (fun t => decide (t.env.resp = some ⟨.ok, 0x00000400⟩)) = true := by
  decide

/-- R33, R36: WIDTH keeps 16 bits, MODE its two bits. -/
theorem test_regwr_narrows :
    nextIs (exec (.regwr 0x08 0xABCD0005) State.reset) (fun t => decide (t.host.width = 5)) = true ∧
    nextIs (exec (.regwr 0x14 0xFFFFFFFE) State.reset) (fun t => !t.host.par && t.host.dyn) = true := by decide

/-- R154: a write of UNITS, a register that is read only, changes nothing. -/
theorem test_regwr_read_only :
    nextIs (exec (.regwr 0x20 7) State.reset) (fun t => decide (t.host.units = 0 ∧ t.env.resp = some ⟨.ok, 0⟩)) =
      true := by decide

/-- V7: sample 18 of image G is 110, also during a run. -/
theorem test_samprdI :
    nextIs (exec (.samprdI 18) (running 1 convLane)) (fun t => decide (t.env.resp = some ⟨.ok, 110⟩)) = true := by
  decide

/-- R156: bits 7:0 are stored; during a run the write is dropped and WDROP set (P5). -/
theorem test_sampwrI :
    nextIs (exec (.sampwrI 0 0x1207) (configured 1)) (fun t => decide (imemRead t 0 = 7 ∧ imemRead t 1 = 16)) = true ∧
    nextIs (exec (.sampwrI 0 7) (running 1 convLane)) (fun t => decide (imemRead t 0 = 11) && t.host.wdrop) = true := by
  decide

/-- R157, R267: a read of OMEM outside a run is exact, also after E_SHAPE, which starts no run. -/
theorem test_samprdO :
    nextIs (exec (.samprdO 12) { inFault with omem := [(12, 73)] })
      (fun t => decide (t.env.resp = some ⟨.ok, 73⟩)) = true ∧
    nextIs (exec (.samprdO 12) { configured 1 with omem := [(12, 73)] })
      (fun t => decide (t.env.resp = some ⟨.ok, 73⟩)) = true := by decide

/-- R158: a write of OMEM is refused. -/
theorem test_sampwrO :
    nextIs (exec (.sampwrO 0 7) State.reset) (fun t => decide (t.env.resp = some ⟨.err, 0⟩ ∧ t.omem = [])) = true := by
  decide

/-- P5: ACK 0x12 clears DONE and WDROP; P4: ACK cannot clear ERR or ECODE. -/
theorem test_ack :
    nextIs (exec (.ack 0x12) { configured 1 with host := { (configured 1).host with done := true, wdrop := true } })
      (fun t => decide (statusWord t = 0)) = true ∧
    nextIs (exec (.ack 0xFFFFFFFF) inFault) (fun t => decide (statusWord t = 0x104)) = true := by decide

/-- V7, P6: START on image G under policies 1 and 7. -/
theorem test_start :
    nextIs (exec .start (configured 1)) (fun t => decide (t.sched.nitems = 5 ∧ t.sched.u = 1 ∧ statusWord t = 1)) =
      true ∧
    nextIs (exec .start (configured 7)) (fun t => decide (t.sched.nitems = 3 ∧ statusWord t = 9)) = true := by decide

/-- P4: START without configuration is E_SHAPE with the response (OK, 0). -/
theorem test_start_shape :
    nextIs (exec .start State.reset)
      (fun t => decide (statusWord t = 0x104 ∧ t.env.resp = some ⟨.ok, 0⟩ ∧ t.sched.nitems = 0)) = true := by decide

/-! ## The scheduler -/

/-- V7: the items of image G under policy 1, and item 2 as its descriptor. -/
theorem test_items :
    (items 4 3 1 0).map (fun it => itemWord it) =
      [0x8000000000000004, 0x8000000100000001, 0x4000000100010002, 0x8000000100030001, 0x8000000200000004] := by
  decide

/-- P2: CHUNK 2 on a 5 by 5 image gives 18 items. -/
theorem test_nitems_chunked : nitems 5 5 1 2 = 18 ∧ (items 5 5 1 2).length = 18 := by decide

/-- V7: DISPATCH of item 2 to lane 0. -/
theorem test_dispatchConv :
    nextIs (exec (.dispatchConv 1 1 2) { running 1 .reset with sched := { (running 1 .reset).sched with retired := 3 } })
      (fun t => decide (t.lanes[0]? = some (loadLane 0x4000000100010002) ∧ t.sched.next = 4)) = true := by decide

/-- P3, step 1: DISPATCH.PASS 0,0,2. -/
theorem test_dispatchPass :
    nextIs (exec (.dispatchPass 0 0 2) (running 1 .reset))
      (fun t => decide (t.lanes[0]? = some (loadLane 0x8000000000000002) ∧ t.sched.next = 4)) = true := by decide

/-! ## The lane -/

/-- V7, item 2: LDESC of 0x4000000100010002. -/
theorem test_ldesc_conv :
    nextIs (exec .ldesc (running 1 (loadLane 0x4000000100010002))) (fun t => decide (t.lanes[0]? = some
      { loadLane 0x4000000100010002 with st := .run, kind := .conv, y := 1, x := 1, col := 0, rem := 2 })) = true := by
  decide

/-- R193: a convolution item at column 0 raises E_BOUNDS, a reserved kind E_ILLEGAL. -/
theorem test_ldesc_faults :
    nextIs (exec .ldesc (running 1 (loadLane 0x4000000100000002))) (fun t => decide (t.host.ecode = 3)) = true ∧
    nextIs (exec .ldesc (running 1 (loadLane 0xC000000100000002))) (fun t => decide (t.host.ecode = 4)) = true := by
  decide

/-- V7: WSHIFT from column 2 to column 3 of image G, the window moves to pixel `(2, 1)`. -/
theorem test_wshift :
    nextIs (exec .wshift (running 1 { convLane with x := 2, rem := 1 })) (fun t => decide (t.lanes[0]? = some
      { convLane with x := 2, rem := 1, col := 4, win :=
        ⟨⟨px 18 26 44, px 39 50 71, px 74 88 112⟩, ⟨px 60 68 86, px 110 121 142, px 174 188 212⟩,
          ⟨px 128 136 154, px 207 218 239, px 44 58 82⟩⟩ })) = true := by decide

/-- R198: a column past the image raises E_BOUNDS. -/
theorem test_wshift_bounds :
    nextIs (exec .wshift (running 1 { convLane with col := 4 })) (fun t => decide (t.host.ecode = 3)) = true := by decide

/-- V7: the sums of pixel `(1, 1)`. -/
theorem test_accAvg :
    nextIs (exec .accAvg (running 1 convLane)) (fun t => decide (t.lanes[0]? = some avgLane)) = true := by decide

/-- V7: the gradients of pixel `(1, 1)`. -/
theorem test_accSob :
    nextIs (exec .accSob (running 2 convLane)) (fun t => decide (t.lanes[0]? = some sobLane)) = true := by decide

/-- V7: the averages 73, 81, 99 at samples 15 to 17. -/
theorem test_emitAvg :
    nextIs (exec .emitAvg (running 1 avgLane)) (fun t => decide (t.omem = [(15, 73), (16, 81), (17, 99)] ∧
      t.lanes[0]? = some { avgLane with x := 2, rem := 1, av := .none })) = true := by decide

/-- V8, pixel `(1, 1)`: gradients 24, 40, 56 and 80 give 83, 89, 97 under TRUNC; V4: 360 is clamped, not wrapped. -/
theorem test_emitSob :
    nextIs (exec .emitSob (running 2 { sobLane with gx := ⟨24, 40, 56⟩, gy := ⟨80, 80, 80⟩ }))
      (fun t => decide (t.omem = [(15, 83), (16, 89), (17, 97)])) = true ∧
    nextIs (exec .emitSob (running 2 { sobLane with gx := ⟨-255, 0, 255⟩, gy := ⟨255, -510, 0⟩ }))
      (fun t => decide (t.omem = [(15, 255), (16, 255), (17, 255)])) = true := by decide

/-- V8, pixel `(1, 1)`: NEAREST gives 84, 89, 98. -/
theorem test_root_nearest :
    root .nearest 6976 = 84 ∧ root .nearest 8000 = 89 ∧ root .nearest 9536 = 98 ∧ root .trunc 6976 = 83 := by decide

/-- V7: pixel `(3, 1)` copied to samples 21 to 23. -/
theorem test_pass :
    nextIs (exec .pass (running 1 passLane)) (fun t => decide (t.omem = [(21, 174), (22, 188), (23, 212)] ∧
      t.lanes[0]? = some { passLane with x := 4, rem := 0 })) = true := by decide

/-- R199: RETIRE. -/
theorem test_retire :
    nextIs (exec .retire (running 1 endLane)) (fun t => decide (t.sched.retired = 3 ∧
      t.lanes[0]? = some { endLane with st := .idle, kind := .none, wv := 0, av := .none })) = true := by decide

/-- V7: the trace `1222352358` of item 2, one code at a time, from the lane states between. -/
theorem test_sequencer :
    nextUop 1 (loadLane 0x4000000100010002) = .issue 1 ∧ nextUop 1 { convLane with wv := 2, col := 2 } = .issue 2 ∧
    nextUop 1 convLane = .issue 3 ∧ nextUop 2 convLane = .issue 4 ∧ nextUop 1 avgLane = .issue 5 ∧
    nextUop 2 sobLane = .issue 6 ∧ nextUop 1 { convLane with x := 2, rem := 1 } = .issue 2 ∧
    nextUop 1 passLane = .issue 7 ∧ nextUop 1 endLane = .issue 8 := by decide

/-- V7: 34 steps under policy 1, 22 under policy 7 (R182). -/
theorem test_run_steps : runSteps 4 3 1 0 = 34 ∧ runSteps 4 3 7 0 = 22 := by decide

/-! ## Witnesses: for each statement with hypotheses, a state and operands that meet them, clause by clause -/

/-- StepRunsTheDecodedOperation: words on the host port, at the sequencer and at the scheduler. -/
theorem witness_step_runs_the_decoded_operation :
    (fetch (withAgenda State.reset [.host 0x000000000400000000]) = (.word (.h 0x000000000400000000), State.reset) ∧
      decode (.h 0x000000000400000000) = some (.regrd 0x04)) ∧
    ((withAgenda State.reset [.host 0x200000000000000001]).env.agenda = .host 0x200000000000000001 :: [] ∧
      decode (.h 0x200000000000000001) = some .start) ∧
    ((withAgenda (running 1 convLane) [.lane 0]).env.agenda = .lane 0 :: [] ∧
      (running 1 convLane).sched.sst = .run ∧ (running 1 convLane).lanes[0]? = some convLane ∧
      nextUop (running 1 convLane).sched.apol convLane = .issue 3 ∧ decode (.u 3) = some .accAvg) ∧
    ((withAgenda (running 1 .reset) [.dispatch 0]).env.agenda = .dispatch 0 :: [] ∧
      dispatchReady (running 1 .reset) = true ∧ nextItem? (running 1 .reset) = some ⟨false, 1, 3, 1⟩ ∧
      decode (.d (itemWord ⟨false, 1, 3, 1⟩)) = some (.dispatchPass 1 3 1)) := by
  refine ⟨⟨rfl, by decide⟩, ⟨rfl, by decide⟩, ⟨rfl, rfl, rfl, by decide, by decide⟩, rfl, by decide, by decide,
    by decide⟩

/-- DecodingAnEncodedOperationGivesItBack: a well-formed operation of each format. -/
theorem witness_wf :
    Instr.wf (.regwr 0x00 2) = true ∧ Instr.wf (.dispatchConv 1 1 1) = true ∧ Instr.wf .retire = true := by decide

/-- RefusedTransactionsChangeNothing, a word of each form: space 3, a bit of the zero field, register offsets 0x30 and
0x2D, index `3*MEM_PIXELS` of either memory, a write of OMEM. -/
theorem witness_refused_words :
    ((0xC00000000000000000#72).extractLsb' 70 2 = 3 ∧ (0x040000000000000000#72).extractLsb' 66 3 ≠ 0) ∧
    ((0x000000003000000000#72).extractLsb' 70 2 = 0 ∧ 0x2C < ((0x000000003000000000#72).extractLsb' 32 34).toNat) ∧
    ((0x000000002D00000000#72).extractLsb' 70 2 = 0 ∧ ((0x000000002D00000000#72).extractLsb' 32 34).toNat % 4 ≠ 0) ∧
    ((0x4000000C0000000000#72).extractLsb' 70 2 = 1 ∧
      3 * State.reset.cfg.memPixels ≤ ((0x4000000C0000000000#72).extractLsb' 32 34).toNat) ∧
    ((0x8000000C0000000000#72).extractLsb' 70 2 = 2 ∧
      3 * State.reset.cfg.memPixels ≤ ((0x8000000C0000000000#72).extractLsb' 32 34).toNat) ∧
    ((0xA00000000000000007#72).extractLsb' 70 2 = 2 ∧ (0xA00000000000000007#72).getLsbD 69 = true) ∧
    (withAgenda State.reset [.host 0xA00000000000000007]).env.agenda = .host 0xA00000000000000007 :: [] := by decide

/-- IllegalInnerWordsRaiseIllegal: the codes 0, 9 and 15 for a lane that exists, an illegal descriptor for a scheduler
that is ready, and a lane that holds one. -/
theorem witness_illegal_inner_words :
    ((withAgenda (running 1 convLane) [.uop 0 0]).env.agenda = .uop 0 0 :: [] ∧
      (9 ≤ (9 : UopCode).toNat ∧ 9 ≤ (15 : UopCode).toNat) ∧ (running 1 convLane).sched.sst = .run ∧
      (running 1 convLane).lanes[0]? = some convLane) ∧
    ((withAgenda (running 1 .reset) [.descr 0 0xC000000000000000]).env.agenda = .descr 0 0xC000000000000000 :: [] ∧
      dispatchReady (running 1 .reset) = true) ∧
    ((loadLane 0xC000000000000000).st = .load ∧ decode (.d (loadLane 0xC000000000000000).dreg) = none) := by decide

/-- HardwareTakesOneOfItsEnabledSteps: the machine at rest, a run with a busy lane, a run at its end. -/
theorem witness_enabled_moves :
    State.reset.env.agenda = [] ∧ enabledMoves State.reset = [] ∧ (running 1 convLane).env.agenda = [] ∧
    enabledMoves (running 1 convLane) = [.lane 0] ∧
    enabledMoves { running 1 .reset with sched := { (running 1 .reset).sched with next := 5, retired := 5 } } =
      [.join] := by decide

/-- RegrdReturnsTheRegister, RegwrWritesItsRegister: parameters in their range, an offset past the last register and a
misaligned one, both values of bit 0. -/
theorem witness_register_access :
    State.reset.cfg.wf ∧ 0x2C < (0x30 : Addr).toNat ∧ (0x2B : Addr).toNat % 4 ≠ 0 ∧
    (1 : Word).getLsbD 0 = true ∧ (0xFFFFFFFE : Word).getLsbD 0 = false := by decide

/-- SamprdInputReadsTheSample, SampwrInputWritesOneSample, SamprdOutputReadsTheSample: the last sample and the first
index past it, outside a run and during one. -/
theorem witness_sample_access :
    (3071 : Addr).toNat < 3 * State.reset.cfg.memPixels ∧ 3 * State.reset.cfg.memPixels ≤ (3072 : Addr).toNat ∧
    State.reset.sched.sst ≠ .run ∧ (running 1 convLane).sched.sst = .run ∧
    (running 1 convLane).cfg = State.reset.cfg := by decide

/-- A fault raised during a run: E_BOUNDS, with a cell of OMEM written before (R263). -/
def inMidRunFault : State :=
  { running 1 convLane with
    omem := [(15, 73)]
    host := { HostRegs.reset .vectors with ecode := 3 }
    sched := { (running 1 convLane).sched with sst := .fault } }

/-- SamprdOutputReadsTheSample: a written cell outside FAULT and after E_SHAPE, and the same cell after a fault raised
during a run. -/
theorem witness_samprdO_stored_or_lost :
    (let s := { configured 1 with omem := [(15, 73)] }; memGet s.omem 15 = some 73 ∧ s.sched.sst ≠ .run ∧
      ¬(s.sched.sst = .fault ∧ (s.host.ecode = 3 ∨ s.host.ecode = 4))) ∧
    (let s := { inFault with omem := [(15, 73)] }; memGet s.omem 15 = some 73 ∧ s.sched.sst ≠ .run ∧
      ¬(s.sched.sst = .fault ∧ (s.host.ecode = 3 ∨ s.host.ecode = 4))) ∧
    (inMidRunFault.sched.sst = .fault ∧ inMidRunFault.host.ecode = 3 ∧
      ({ inMidRunFault with host := { inMidRunFault.host with ecode := 4 } } : State).host.ecode = 4) := by decide

/-- EveryWordDecodesByItsRow: values of bit 0 and of the offset on either side of each special case of REGWR. -/
theorem witness_rows :
    (0xFFFFFFFF : Word).getLsbD 0 = true ∧ (0x08 : Addr) ≠ 0x04 ∧ ¬((0x08 : Addr) = 0x00 ∧ (1 : Word).getLsbD 0 = true) ∧
    ¬((0x00 : Addr) = 0x00 ∧ (2 : Word).getLsbD 0 = true) := by decide

/-- Idle with this shape configured. -/
def shaped (w h : Coord) : State :=
  { State.reset with host := { HostRegs.reset .vectors with width := w, height := h } }

/-- StartChecksTheShapeAndStartsTheRun: FAULT, RUN, no width, no height, one pixel too many, exactly full. -/
theorem witness_start :
    inFault.sched.sst = .fault ∧ (running 1 convLane).sched.sst = .run ∧
    ((shaped 0 5).sched.sst = .idle ∧ (shaped 0 5).host.width = 0) ∧ (shaped 5 0).host.height = 0 ∧
    ((shaped 1025 1).sched.sst = .idle ∧ (shaped 1025 1).host.width ≠ 0 ∧ (shaped 1025 1).host.height ≠ 0 ∧
      (shaped 1025 1).cfg.memPixels < (shaped 1025 1).host.width.toNat * (shaped 1025 1).host.height.toNat) ∧
    ((shaped 32 32).sched.sst = .idle ∧ (shaped 32 32).host.width ≠ 0 ∧ (shaped 32 32).host.height ≠ 0 ∧
      (shaped 32 32).host.width.toNat * (shaped 32 32).host.height.toNat = (shaped 32 32).cfg.memPixels) := by decide

/-- UnitsAreOneUmaxOrAnyValueBetween, NitemsIsTheLengthOfTheItemList, ItemsPartitionTheImage,
SchedulerDescriptorsAreWellFormed: the smallest parameters and shapes, and an item of each kind. -/
theorem witness_scheduler_shapes :
    (1 : Nat) ≤ 1 ∧ 1 ≤ min (max 0 1) 1 ∧ (⟨false, 0, 0, 1⟩ : Item) ∈ items 1 1 1 0 ∧
    (⟨true, 1, 1, 1⟩ : Item) ∈ items 3 3 2 0 := by decide

/-- DispatchHandsTheDescriptorToAnIdleLane: the guard holds; it fails outside a run, with no item left, and with the
one enabled lane busy. -/
theorem witness_dispatch :
    ((running 1 .reset).sched.sst = .run ∧ (running 1 .reset).sched.next < (running 1 .reset).sched.nitems ∧
      0 < (running 1 .reset).sched.u.toNat ∧ (running 1 .reset).lanes[0]? = some Lane.reset ∧
      Lane.reset.st = .idle) ∧
    State.reset.sched.sst ≠ .run ∧
    (let s := { running 1 .reset with sched := { (running 1 .reset).sched with next := 5 } };
      s.sched.nitems ≤ s.sched.next) ∧
    (∀ l L, l < (running 1 convLane).sched.u.toNat → (running 1 convLane).lanes[l]? = some L → L.st ≠ .idle) := by
  refine ⟨by decide, by decide, by decide, ?_⟩
  intro l L hl hL
  have hl : l < 1 := hl
  obtain rfl : l = 0 := by omega
  obtain rfl : convLane = L := Option.some.inj hL
  decide

/-- JoinEndsTheRun: JOIN with its guard and without. -/
theorem witness_join :
    (let s := { running 1 .reset with sched := { (running 1 .reset).sched with next := 5, retired := 5 } };
      s.sched.sst = .run ∧ s.sched.next = s.sched.nitems ∧ s.sched.retired = s.sched.nitems) ∧
    ¬((running 1 .reset).sched.sst = .run ∧ (running 1 .reset).sched.next = (running 1 .reset).sched.nitems ∧
      (running 1 .reset).sched.retired = (running 1 .reset).sched.nitems) := by decide

/-- SequencerSelectsTheNextOperation: a lane for each row of the sequencer. -/
theorem witness_sequencer :
    Lane.reset.st = .idle ∧ (loadLane 0).st = .load ∧ (endLane.st = .run ∧ endLane.rem = 0) ∧
    (passLane.st = .run ∧ passLane.rem ≠ 0 ∧ passLane.kind = .pass) ∧
    (let L := { convLane with kind := .none }; L.st = .run ∧ L.rem ≠ 0 ∧ L.kind = .none) ∧
    (convLane.st = .run ∧ convLane.rem ≠ 0 ∧ convLane.kind = .conv ∧ (3 : Word) ≠ 1 ∧ (3 : Word) ≠ 2) ∧
    ({ convLane with wv := 2, col := 2 } : Lane).wv.toNat < 3 ∧
    (convLane.wv = 3 ∧ convLane.col.toNat = convLane.x.toNat + 2 ∧ convLane.av = .none) ∧
    avgLane.av = .avg ∧ sobLane.av = .sob ∧
    nextUop (running 1 .reset).sched.apol Lane.reset = .wait ∧
    nextUop (running 3 convLane).sched.apol convLane = .illegal := by decide

/-- LanesStepOnlyDuringARun: no run, and during a run a lane number past the last lane. -/
theorem witness_frozen_lanes :
    State.reset.sched.sst ≠ .run ∧
    (let s := { running 1 convLane with env := { Env.init with who := 4 } }; s.lanes[s.env.who]? = none) := by decide

/-- Every statement about a lane: the lane of `running` is the acting one, whatever its record. -/
theorem witness_acting (policy : Word) (L : Lane) : actingLane (running policy L) L := ⟨rfl, rfl⟩

/-- LdescUnpacksTheDescriptor: a descriptor of each kind, one at column 0, reserved kinds, a bit of the zero field, and
a lane that is not in LOAD. -/
theorem witness_ldesc :
    (let L := loadLane 0x4000000100010002; L.st = .load ∧ L.dreg.extractLsb' 48 14 = 0 ∧
      L.dreg.extractLsb' 62 2 = 1 ∧ L.dreg.extractLsb' 16 16 ≠ 0) ∧
    (let L := loadLane 0x8000000000000002; L.st = .load ∧ L.dreg.extractLsb' 48 14 = 0 ∧
      L.dreg.extractLsb' 62 2 = 2) ∧
    (let L := loadLane 0x4000000100000002; L.st = .load ∧ L.dreg.extractLsb' 48 14 = 0 ∧
      L.dreg.extractLsb' 62 2 = 1 ∧ L.dreg.extractLsb' 16 16 = 0) ∧
    (loadLane 0).dreg.extractLsb' 62 2 = 0 ∧ (loadLane 0xC000000000000000).dreg.extractLsb' 62 2 = 3 ∧
    (loadLane 0x4001000100010002).dreg.extractLsb' 48 14 ≠ 0 ∧ convLane.st ≠ .load := by decide

/-- WshiftShiftsTheWindow: inside the image, past each of its bounds, and without an item in progress. -/
theorem witness_wshift :
    (convLane.st = .run ∧ convLane.kind = .conv ∧ convLane.rem ≠ 0) ∧
    (let s := running 1 convLane; 1 ≤ convLane.y.toNat ∧ convLane.y.toNat + 1 < s.sched.ah.toNat ∧
      convLane.col.toNat < s.sched.aw.toNat ∧ s.sched.aw.toNat * s.sched.ah.toNat ≤ s.cfg.memPixels) ∧
    ({ convLane with y := 0 } : Lane).y.toNat = 0 ∧
    (running 1 convLane).sched.ah.toNat ≤ ({ convLane with y := 2 } : Lane).y.toNat + 1 ∧
    (running 1 convLane).sched.aw.toNat ≤ ({ convLane with col := 4 } : Lane).col.toNat ∧
    ¬(endLane.st = .run ∧ endLane.kind = .conv ∧ endLane.rem ≠ 0) := by decide

/-- AccAvgSumsTheWindow, AccSobFormsTheKernelSums: the window centred, and one column behind. -/
theorem witness_acc :
    (convLane.st = .run ∧ convLane.kind = .conv ∧ convLane.rem ≠ 0 ∧ convLane.wv = 3 ∧
      convLane.col.toNat = convLane.x.toNat + 2) ∧
    ¬(let L := { convLane with x := 2 }; L.col.toNat = L.x.toNat + 2) := by decide

/-- EmitAvgWritesTheMean, EmitSobWritesTheClampedMagnitude, PassCopiesThePixel, RetireFreesTheLane: their lanes, at the
last pixel of a row and past each edge, and without the precondition. -/
theorem witness_emit_pass_retire :
    (avgLane.st = .run ∧ avgLane.kind = .conv ∧ avgLane.rem ≠ 0 ∧ avgLane.av = .avg) ∧
    (sobLane.st = .run ∧ sobLane.kind = .conv ∧ sobLane.rem ≠ 0 ∧ sobLane.av = .sob) ∧
    (passLane.st = .run ∧ passLane.kind = .pass ∧ passLane.rem ≠ 0) ∧
    (let s := running 1 passLane; passLane.x.toNat + 1 = s.sched.aw.toNat ∧
      passLane.y.toNat < s.sched.ah.toNat ∧ s.sched.aw.toNat * s.sched.ah.toNat ≤ s.cfg.memPixels) ∧
    (let s := running 1 avgLane; avgLane.x.toNat < s.sched.aw.toNat ∧ avgLane.y.toNat < s.sched.ah.toNat) ∧
    (running 1 avgLane).sched.aw.toNat ≤ ({ avgLane with x := 4 } : Lane).x.toNat ∧
    (running 1 avgLane).sched.ah.toNat ≤ ({ avgLane with y := 3 } : Lane).y.toNat ∧
    convLane.av ≠ .avg ∧ convLane.av ≠ .sob ∧ convLane.kind ≠ .pass ∧
    (endLane.st = .run ∧ endLane.rem = 0) ∧ ¬(convLane.st = .run ∧ convLane.rem = 0) := by decide

/-- A state that no run reaches: the image is larger than the memories. -/
def oversized (L : Lane) : State := { running 1 L with cfg := ⟨4, 5, .trunc⟩ }

/-- LaneAccessPastTheMemoryStops: pixels past the memories, the first one (number 5) among them. -/
theorem witness_no_such_cell :
    actingLane (oversized convLane) convLane ∧ actingLane (oversized avgLane) avgLane ∧
    (let s := oversized convLane; convLane.st = .run ∧ convLane.rem ≠ 0 ∧ convLane.kind = .conv ∧
      1 ≤ convLane.y.toNat ∧ convLane.y.toNat + 1 < s.sched.ah.toNat ∧ convLane.col.toNat < s.sched.aw.toNat ∧
      s.cfg.memPixels ≤ (convLane.y.toNat + 1) * s.sched.aw.toNat + convLane.col.toNat) ∧
    (let s := oversized avgLane; avgLane.x.toNat < s.sched.aw.toNat ∧ avgLane.y.toNat < s.sched.ah.toNat ∧
      s.cfg.memPixels = avgLane.y.toNat * s.sched.aw.toNat + avgLane.x.toNat ∧
      avgLane.kind = .conv ∧ avgLane.av = .avg) ∧
    (sobLane.st = .run ∧ sobLane.rem ≠ 0 ∧ sobLane.kind = .conv ∧ sobLane.av = .sob) ∧
    (passLane.st = .run ∧ passLane.rem ≠ 0 ∧ passLane.kind = .pass) :=
  ⟨⟨rfl, rfl⟩, ⟨rfl, rfl⟩, by decide, by decide, by decide, by decide⟩

/-- SeparableFormGivesTheSameSums: the column terms of a window of nines. -/
theorem witness_column_terms :
    let w : Window := Tri.const (Tri.const (px 9 9 9))
    (∀ j : Fin 3, (27 : Int) = (w.at 0 j 0).toNat + (w.at 1 j 0).toNat + (w.at 2 j 0).toNat) ∧
    (∀ j : Fin 3, (36 : Int) = (w.at 0 j 0).toNat + 2 * (w.at 1 j 0).toNat + (w.at 2 j 0).toNat) ∧
    (∀ j : Fin 3, (0 : Int) = (w.at 2 j 0).toNat - (w.at 0 j 0).toNat) := by decide

/-- ConstantImagesAreFixedOrZero: a pixel of the interior and one of the border. -/
theorem witness_interior : interior 3 3 1 1 = true ∧ interior 3 3 2 1 = false ∧ interior 3 3 0 1 = false := by decide

/-- ChannelsAreIndependent: two images that agree in channel 0 and differ in channel 1. -/
theorem witness_channels :
    let I : Nat → Nat → Fin 3 → Nat := fun x y _ => x + y
    let J : Nat → Nat → Fin 3 → Nat := fun x y c => if c = 0 then x + y else 0
    (∀ x y, I x y 0 = J x y 0) ∧ I 1 1 1 ≠ J 1 1 1 := ⟨fun _ _ => rfl, by decide⟩

/-- FaultIsLeftByResetOnly, FaultEntryRecordsTheFirstCode, ResetLeavesTheResetValues: a step in FAULT that is no reset,
a state that is not in FAULT, a reset. -/
theorem witness_fault_and_reset :
    inFault.sched.sst = .fault ∧
    nextIs (step (withAgenda inFault [.host 0x200000000000000001])) (fun t => decide (t.sched = inFault.sched)) = true ∧
    (withAgenda inFault [.host 0x200000000000000001]).env.agenda.head? ≠ some .reset ∧
    (withAgenda inFault [.reset]).env.agenda = .reset :: [] ∧ State.reset.sched.sst ≠ .fault := by decide

/-- MemoriesAndRegistersHaveTheirWriters, LaneRegistersHaveTheirWriters: operations that answer a next state. -/
theorem witness_writers :
    (nextIs (exec .pass (running 1 passLane)) fun t => (t.lanes[0]?).isSome) = true ∧
    (running 1 passLane).lanes[0]? = some passLane ∧
    (nextIs (exec (.ack 2) State.reset) fun _ => true) = true := by decide

/-- RunConfigurationIsConstant: a step of a run that is no reset. -/
theorem witness_run_step :
    (running 1 convLane).sched.sst = .run ∧
    nextIs (step (withAgenda (running 1 convLane) [.lane 0])) (fun t => decide (t.sched.sst = .run)) = true ∧
    (withAgenda (running 1 convLane) [.lane 0]).env.agenda.head? ≠ some .reset := by decide

/-- InvariantsHoldAfterReset: the smallest and the largest parameters. -/
theorem witness_params : Config.wf ⟨1, 1, .trunc⟩ ∧ Config.wf ⟨255, 4294967295, .nearest⟩ := by decide

/-! ## Witnesses of the invariants -/

/-- A machine with all lanes at rest meets the invariant of every machine: outside a run, or during a run whose
cursors agree. -/
theorem machineInv_of_resting_lanes (s : State) (hp : s.cfg.wf)
    (hl : s.lanes = List.replicate s.cfg.nlanes Lane.reset)
    (hi : Memory.wf s.imem = true) (hi' : s.imem.all (fun c => decide (c.1 < cellCount s.cfg)) = true)
    (ho : Memory.wf s.omem = true) (ho' : s.omem.all (fun c => decide (c.1 < cellCount s.cfg)) = true)
    (he : s.host.ecode = 0) (hd : s.host.done = false) (hs : s.sched.sst ≠ .fault)
    (hr : s.sched.sst = .run → (s.sched.aw ≠ 0 ∧ s.sched.ah ≠ 0) ∧
      s.sched.aw.toNat * s.sched.ah.toNat ≤ s.cfg.memPixels ∧ s.sched.nitems.toNat = (runItems s).length ∧
      (1 ≤ s.sched.u.toNat ∧ s.sched.u.toNat ≤ s.cfg.nlanes) ∧
      s.sched.retired = s.sched.next ∧ s.sched.next ≤ s.sched.nitems) : MachineInv s where
  params := hp
  laneCount := by rw [hl, List.length_replicate]
  imemForm := hi
  imemSize := fun c hc => by simpa using List.all_eq_true.1 hi' c hc
  omemForm := ho
  omemSize := fun c hc => by simpa using List.all_eq_true.1 ho' c hc
  faultCode := by rw [he]; exact ⟨fun h => absurd rfl h, fun h => absurd h hs⟩
  faultRange := by rw [he]; decide
  doneAfterRun := by rw [hd]; intro h; cases h
  restingLane := by
    rw [hl]; intro L hL _
    rw [List.eq_of_mem_replicate hL]
    exact ⟨rfl, rfl, rfl, rfl⟩
  restingMachine := by
    rw [hl]; intro _ L hL
    rw [List.eq_of_mem_replicate hL]
    rfl
  running := fun h =>
    { shape := (hr h).1
      fits := (hr h).2.1
      length := (hr h).2.2.1
      team := (hr h).2.2.2.1
      cursors := ⟨by rw [(hr h).2.2.2.2.1]; exact BitVec.le_refl _, (hr h).2.2.2.2.2⟩
      inFlight := by
        have : busyCount s = 0 := by
          unfold busyCount
          rw [hl, List.countP_eq_zero]
          intro L hL
          rw [List.eq_of_mem_replicate hL]
          decide
        rw [this, (hr h).2.2.2.2.1, Nat.zero_add]
      enabled := by
        intro l hb
        obtain ⟨L, hL, hne⟩ := (laneBusy_iff s l).1 hb
        rw [hl] at hL
        rw [List.eq_of_mem_replicate (List.mem_of_getElem? hL)] at hne
        exact absurd rfl hne }

/-- Lanes at rest have no CONV item in progress. -/
theorem convShape_of_resting_lanes (s : State) (n : Nat) (hl : s.lanes = List.replicate n Lane.reset) :
    ∀ L ∈ s.lanes, L.st = .run → L.kind = .conv → ConvShape s L := by
  rw [hl]; intro L hL h
  rw [List.eq_of_mem_replicate hL] at h
  cases h

/-- Lanes at rest track nothing. -/
theorem laneTracks_reset (s : State) : LaneTracks s Lane.reset := by
  constructor <;> intro h <;> cases h

/-- Image G configured, START on the host port: sequential, or with two lanes and CHUNK 1. -/
def readyToStart (par : Bool) : State :=
  withAgenda { configured 1 with host := { (configured 1).host with
    par := par, lanesLimit := 2, chunk := if par then 1 else 0 } } [.host 0x200000000000000001]

/-- An idle machine with START on the host port meets the invariant of a run. -/
theorem runInv_readyToStart (par : Bool) : RunInv (readyToStart par) where
  machine := by apply machineInv_of_resting_lanes <;> cases par <;> decide
  bySpec := by
    intro m hm
    have : m = .host 0x200000000000000001 := by simpa [readyToStart, withAgenda] using hm
    rw [this]; rfl
  convLanes := convShape_of_resting_lanes _ 4 rfl
  tracks := by intro h; cases h
  accounted := by intro h; cases h

/-- AcceptedStartRunsToTheReferenceImage, SequentialAndParallelRunsAgree: the same image in both modes. -/
theorem witness_start_contract :
    RunInv (readyToStart false) ∧ RunInv (readyToStart true) ∧
    ((readyToStart false).sched.sst = .idle ∧ (readyToStart true).sched.sst = .idle) ∧
    ((readyToStart false).env.agenda = [.host 0x200000000000000001] ∧
      (readyToStart true).env.agenda = [.host 0x200000000000000001]) ∧
    ((readyToStart false).host.width ≠ 0 ∧ (readyToStart false).host.height ≠ 0 ∧
      (readyToStart false).host.width.toNat * (readyToStart false).host.height.toNat ≤
        (readyToStart false).cfg.memPixels ∧
      (readyToStart true).cfg.memPixels = (readyToStart false).cfg.memPixels) ∧
    ((readyToStart true).host.width = (readyToStart false).host.width ∧
      (readyToStart true).host.height = (readyToStart false).host.height ∧
      (readyToStart true).host.policy = (readyToStart false).host.policy ∧
      (readyToStart true).cfg.magRound = (readyToStart false).cfg.magRound) ∧
    ∀ i, imemRead (readyToStart true) i = imemRead (readyToStart false) i :=
  ⟨runInv_readyToStart false, runInv_readyToStart true, by decide, by decide, by decide, by decide, fun _ => rfl⟩

/-- Just after START of a run on a 3 by 1 image without a filter: one item, nothing dispatched. -/
def justStarted : State :=
  { State.reset with
    imem := samples [1, 2, 3, 4, 5, 6, 7, 8, 9]
    sched := { sst := .run, aw := 3, ah := 1, apol := 0, apar := false, achunk := 0, u := 1, next := 0, retired := 0,
               nitems := 1 } }

/-- The same run with its item done and retired, and JOIN as the next move. -/
def aboutToJoin : State :=
  withAgenda { justStarted with
    omem := samples [1, 2, 3, 4, 5, 6, 7, 8, 9]
    sched := { justStarted.sched with next := 1, retired := 1 } } [.join]

/-- `justStarted` meets the invariant of a run: its three pixels belong to the item that is still to be
dispatched. -/
theorem runInv_justStarted : RunInv justStarted where
  machine := by apply machineInv_of_resting_lanes <;> decide
  bySpec := by intro m hm; cases hm
  convLanes := convShape_of_resting_lanes _ 4 rfl
  tracks := by
    intro _ L hL
    have hL : L ∈ List.replicate 4 Lane.reset := hL
    rw [List.eq_of_mem_replicate hL]
    exact laneTracks_reset _
  accounted := by
    intro _ x y hx hy
    have hx : x < 3 := hx
    have hy : y < 1 := hy
    refine .inr (.inl ⟨0, ⟨false, 0, 0, 3⟩, Nat.le_refl _, by decide, ?_, ?_, ?_⟩)
    · show 0 = y; omega
    · show 0 ≤ x; omega
    · show x < 0 + 3; omega

/-- `aboutToJoin` meets the invariant of a run: its three pixels are done. -/
theorem runInv_aboutToJoin : RunInv aboutToJoin where
  machine := by apply machineInv_of_resting_lanes <;> decide
  bySpec := by
    intro m hm
    have : m = .join := by simpa [aboutToJoin, withAgenda] using hm
    rw [this]; rfl
  convLanes := convShape_of_resting_lanes _ 4 rfl
  tracks := by
    intro _ L hL
    have hL : L ∈ List.replicate 4 Lane.reset := hL
    rw [List.eq_of_mem_replicate hL]
    exact laneTracks_reset _
  accounted := by
    intro _ x y hx hy
    have hx : x < 3 := hx
    have hy : y < 1 := hy
    left
    intro c
    obtain rfl : y = 0 := by omega
    have hcases : x = 0 ∨ x = 1 ∨ x = 2 := by omega
    rcases hcases with rfl | rfl | rfl <;> revert c <;> decide

/-- EveryStepKeepsTheMachineInvariant, TheMachineNeverStops, EveryStepKeepsTheRunInvariant, NoFaultDuringARun,
EveryStepOfARunMakesProgress: a run left alone, and one whose next step is known. -/
theorem witness_run_in_progress :
    (RunInv justStarted ∧ MachineInv justStarted ∧ justStarted.sched.sst = .run ∧ justStarted.env.agenda = []) ∧
    RunInv aboutToJoin ∧ nextIs (step aboutToJoin) (fun _ => true) = true :=
  ⟨⟨runInv_justStarted, runInv_justStarted.machine, rfl, rfl⟩, runInv_aboutToJoin, by decide⟩

/-- JoinLeavesTheReferenceImage: the step that ends a run. -/
theorem witness_run_at_its_end :
    RunInv aboutToJoin ∧ aboutToJoin.sched.sst = .run ∧ aboutToJoin.env.agenda.head? ≠ some .reset ∧
    nextIs (step aboutToJoin) (fun t => decide (t.sched.sst = .idle)) = true :=
  ⟨runInv_aboutToJoin, rfl, by decide, by decide⟩

end Sys2Proof.Tests
end

section
/-! The interrupt output (10_state.md, R61). -/

open Sys2Proof Sys2Proof.Machine

namespace Sys2Proof.Proofs

/-- STATUS.ERR is no stored bit: it is read off SST (R32, R44). -/
@[simp] theorem err_eq_true_iff (s : State) : err s = true ↔ s.sched.sst = .fault := by
  simp [err]

/-- Settles O43: R61's formula is `irq`'s own, once ERR is read as SST = FAULT. -/
theorem irqIsDoneOrErrEnabled : Obligations.IrqIsDoneOrErrEnabled := by
  intro s
  calc irq s = true
      ↔ (s.host.done = true ∧ s.host.ieDone = true) ∨ (err s = true ∧ s.host.ieErr = true) := by
        simp only [irq, Bool.or_eq_true, Bool.and_eq_true]
    _ ↔ (s.host.done = true ∧ s.host.ieDone = true) ∨
          (s.sched.sst = .fault ∧ s.host.ieErr = true) := by
        rw [err_eq_true_iff]

end Sys2Proof.Proofs
end

section
/-! The integer root (40_reference_function.md, R134). -/

open Sys2Proof Sys2Proof.Machine

namespace Sys2Proof.Proofs

/-- The digit search keeps `n*n <= S < (n + 2^k)^2` while `k` goes down to 0, where it determines `n`. -/
theorem isqrtFrom_eq_sqrt {S : Nat} :
    ∀ {k n : Nat}, n * n ≤ S → S < (n + 2 ^ k) * (n + 2 ^ k) → isqrtFrom S k n = S.sqrt
  | 0, _, hle, hlt => Nat.eq_sqrt.2 ⟨hle, hlt⟩
  | k + 1, n, hle, hlt => by
    unfold isqrtFrom
    split
    case isTrue hdigit =>
      have hpow : n + 2 ^ (k + 1) = n + 2 ^ k + 2 ^ k := by omega
      exact isqrtFrom_eq_sqrt hdigit (hpow ▸ hlt)
    case isFalse hdigit => exact isqrtFrom_eq_sqrt hle (not_le.1 hdigit)

/-- The search starts at a power of two whose square exceeds `S`. -/
theorem lt_sq_two_pow_half_log2 (S : Nat) : S < 2 ^ (S.log2 / 2 + 1) * 2 ^ (S.log2 / 2 + 1) := by
  calc S < 2 ^ (S.log2 + 1) := Nat.lt_log2_self
    _ ≤ 2 ^ ((S.log2 / 2 + 1) + (S.log2 / 2 + 1)) := Nat.pow_le_pow_right (by decide) (by omega)
    _ = 2 ^ (S.log2 / 2 + 1) * 2 ^ (S.log2 / 2 + 1) := Nat.pow_add ..

@[simp] theorem isqrt_eq_sqrt (S : Nat) : isqrt S = S.sqrt :=
  isqrtFrom_eq_sqrt (Nat.zero_le S) (by simpa using lt_sq_two_pow_half_log2 S)

@[simp] theorem root_trunc (S : Nat) : root .trunc S = S.sqrt := isqrt_eq_sqrt S

theorem root_nearest (S : Nat) :
    root .nearest S = if S ≤ S.sqrt * S.sqrt + S.sqrt then S.sqrt else S.sqrt + 1 := by
  simp only [root, isqrt_eq_sqrt]

/-- NEAREST is at distance less than one half from `sqrt(S)` (R134): `2n - 1 < 2 sqrt(S) < 2n + 1`, squared. A tie
would need `S = r^2 + r + 1/4`, which no integer is. -/
theorem root_nearest_bounds (S : Nat) :
    4 * S < (2 * root .nearest S + 1) ^ 2 ∧
    (root .nearest S = 0 ∨ (2 * root .nearest S - 1) ^ 2 < 4 * S) := by
  have hle : S.sqrt * S.sqrt ≤ S := Nat.sqrt_le S
  have hlt : S < (S.sqrt + 1) * (S.sqrt + 1) := Nat.lt_succ_sqrt S
  rw [root_nearest]
  generalize S.sqrt = r at hle hlt
  split
  case isTrue hdown =>
    refine ⟨by linarith, ?_⟩
    cases r with
    | zero => exact .inl rfl
    | succ q =>
      have hodd : 2 * (q + 1) - 1 = 2 * q + 1 := by omega
      rw [hodd]
      exact .inr (by linarith)
  case isFalse hup =>
    have hodd : 2 * (r + 1) - 1 = 2 * r + 1 := by omega
    rw [hodd]
    exact ⟨by linarith, .inr (by linarith)⟩

/-- Settles O36: TRUNC is the library's integer square root, and NEAREST is at distance less than one half. -/
theorem rootIsTheRoundedSquareRoot : Obligations.RootIsTheRoundedSquareRoot := by
  refine ⟨rfl, fun S => ?_⟩
  simp only [root_trunc]
  exact ⟨Nat.sqrt_le S, fun _ => Nat.le_sqrt.2, root_nearest S, root_nearest_bounds S⟩

end Sys2Proof.Proofs
end

section
/-! The reference function (40_reference_function.md, R131 to R146). -/

open Sys2Proof Sys2Proof.Machine

namespace Sys2Proof.Proofs

/-- The root of 0 is 0 under both rounding modes (R134). -/
@[simp] theorem root_zero (m : MagRound) : root m 0 = 0 := by
  cases m with
  | trunc => simp
  | nearest => simp [root_nearest]

section
variable (m : MagRound) (I : Nat → Nat → Fin 3 → Nat) {w h x y : Nat} (c : Fin 3)

/-- Border pixels keep the input under every policy (R136). -/
theorem refApply_of_not_interior (policy : Word) (hb : interior w h x y = false) :
    refApply m w h policy I x y c = I x y c := by
  simp [refApply, hb]

theorem refApply_avg_of_interior (hi : interior w h x y = true) :
    refApply m w h 1 I x y c = refAvg I x y c := by
  simp [refApply, hi]

theorem refApply_sob_of_interior (hi : interior w h x y = true) :
    refApply m w h 2 I x y c = refSob m I x y c := by
  simp [refApply, hi]

end

section
variable (v : Fin 3 → Nat) (x y : Nat) (c : Fin 3)

/-- Nine equal samples have their common value as mean (R132). -/
theorem refAvg_const : refAvg (fun _ _ k => v k) x y c = v c := by
  simp only [refAvg, refSum]
  omega

theorem refGx_const : refGx (fun _ _ k => v k) x y c = 0 := by
  simp only [refGx]
  omega

theorem refGy_const : refGy (fun _ _ k => v k) x y c = 0 := by
  simp only [refGy]
  omega

/-- Both gradients of a constant channel vanish, and with them the magnitude (R133, R135). -/
theorem refSob_const (m : MagRound) : refSob m (fun _ _ k => v k) x y c = 0 := by
  rw [refSob, refGx_const, refGy_const]
  have hmag : mag2 0 0 = 0 := rfl
  simp [hmag]

end

/-- Settles O38, interior and border pixels apart. -/
theorem constantImagesAreFixedOrZero : Obligations.ConstantImagesAreFixedOrZero := by
  intro mode w h v x y c
  refine ⟨?_, fun hi => ?_, refApply_of_not_interior mode _ c 2⟩
  · cases hi : interior w h x y with
    | true => rw [refApply_avg_of_interior mode _ c hi, refAvg_const]
    | false => exact refApply_of_not_interior mode _ c 1 hi
  · rw [refApply_sob_of_interior mode _ c hi, refSob_const]

section
variable {I J : Nat → Nat → Fin 3 → Nat} {c : Fin 3}

/-- The mean reads samples of its own channel only (R132). -/
theorem refAvg_congr (hIJ : ∀ x y, I x y c = J x y c) (x y : Nat) : refAvg I x y c = refAvg J x y c := by
  simp only [refAvg, refSum, hIJ]

/-- The gradient magnitude reads samples of its own channel only (R133, R135). -/
theorem refSob_congr (m : MagRound) (hIJ : ∀ x y, I x y c = J x y c) (x y : Nat) :
    refSob m I x y c = refSob m J x y c := by
  simp only [refSob, refGx, refGy, hIJ]

end

/-- Settles O39: each of the three branches of `refApply` reads channel `c` only. -/
theorem channelsAreIndependent : Obligations.ChannelsAreIndependent := by
  intro mode w h policy I J c hIJ x y
  simp only [refApply, refAvg_congr hIJ, refSob_congr mode hIJ, hIJ]

end Sys2Proof.Proofs
end

section
/-! The host operations (41_host_commands.md, R152 to R159). -/

open Sys2Proof Sys2Proof.Machine

namespace Sys2Proof.Proofs

/-! ## Register offsets (R30, R43) -/

/-- The offset of a register names that register. -/
theorem regOfOffset_regOffset (reg : Reg) : regOfOffset (BitVec.ofNat 34 (regOffset reg)) = some reg := by
  cases reg <;> rfl

/-- Only its own offset names a register. -/
theorem toNat_eq_of_regOfOffset {a : Addr} {reg : Reg} (h : regOfOffset a = some reg) :
    a.toNat = regOffset reg := by
  unfold regOfOffset at h
  split at h <;> cases h <;> assumption

theorem regOffset_aligned_and_le (reg : Reg) : regOffset reg % 4 = 0 ∧ regOffset reg ≤ 0x2C := by
  cases reg <;> decide

/-- A misaligned offset, or one above 0x2C, names no register (R43). -/
theorem regOfOffset_eq_none {a : Addr} (h : a.toNat % 4 ≠ 0 ∨ 0x2C < a.toNat) : regOfOffset a = none := by
  cases hreg : regOfOffset a with
  | none => rfl
  | some reg =>
    have haddr := toNat_eq_of_regOfOffset hreg
    have hoff := regOffset_aligned_and_le reg
    omega

/-! ## The words the host reads (R32, R36, R40, R41) -/

/-- A concatenation as a sum: the fields do not overlap. -/
theorem toNat_append_eq_add {m n : Nat} (x : BitVec m) (y : BitVec n) :
    (x ++ y).toNat = x.toNat * 2 ^ n + y.toNat := by
  rw [BitVec.toNat_append, ← Nat.shiftLeft_add_eq_or_of_lt y.isLt, Nat.shiftLeft_eq]

theorem toNat_err (s : State) : (err s).toNat = if s.sched.sst = .fault then 1 else 0 := Bool.cond_decide ..

theorem toNat_busy (s : State) : (busy s).toNat = if s.sched.sst = .run then 1 else 0 := Bool.cond_decide ..

/-- The STATUS word as the sum of its flags (R32). -/
theorem statusWord_eq_ofNat (s : State) :
    statusWord s = BitVec.ofNat 32
      (s.host.ecode.toNat * 256 + s.host.wdrop.toNat * 16 + s.host.nopf.toNat * 8
        + (if s.sched.sst = .fault then 4 else 0) + s.host.done.toNat * 2
        + (if s.sched.sst = .run then 1 else 0)) := by
  have hecode := s.host.ecode.isLt
  have hwdrop := s.host.wdrop.toNat_le
  have hnopf := s.host.nopf.toNat_le
  have hdone := s.host.done.toNat_le
  apply BitVec.eq_of_toNat_eq
  simp only [statusWord, toNat_append_eq_add, BitVec.toNat_ofBool, BitVec.toNat_ofNat, toNat_err, toNat_busy]
  split_ifs <;> omega

/-- A word of two flags, as MODE (R36) and IEN (R40). -/
theorem twoFlags_eq_ofNat (hi lo : Bool) :
    0#30 ++ BitVec.ofBool hi ++ BitVec.ofBool lo = BitVec.ofNat 32 (hi.toNat * 2 + lo.toNat) := by
  cases hi <;> cases lo <;> decide

/-- The CAP word as the sum of its fields (R41); NLANES fits its eight bits (R6). -/
theorem capWord_eq_ofNat {s : State} (hwf : s.cfg.wf) :
    capWord s = BitVec.ofNat 32
      (s.cfg.nlanes + 16 * 256 + (if s.cfg.magRound = .nearest then 1 else 0) * 65536) := by
  obtain ⟨-, hlanes, -, -⟩ := hwf
  have hfield : (magRoundField s.cfg.magRound).toNat = if s.cfg.magRound = .nearest then 1 else 0 := by
    cases s.cfg.magRound <;> rfl
  apply BitVec.eq_of_toNat_eq
  simp only [capWord, toNat_append_eq_add, hfield, BitVec.toNat_ofNat]
  split_ifs <;> omega

/-! ## REGRD and REGWR (R153, R154) -/

section
variable {s t : State} {reg : Reg} {a : Addr} {v : Word}

/-- REGRD answers the value of the register at its offset. -/
theorem exec_regrd_regOffset (hv : regValue s reg = v) :
    exec (.regrd (BitVec.ofNat 34 (regOffset reg))) s = .next (answered s .ok v) := by
  simp only [exec, execRegrd, regOfOffset_regOffset, hv, respondOk_eq_answered]

/-- REGRD is refused where there is no register. -/
theorem exec_regrd_refused (ha : regOfOffset a = none) : exec (.regrd a) s = .next (answered s .err 0) := by
  simp only [exec, execRegrd, ha, respondErr_eq_answered]

/-- REGWR answers OK and does to the machine what its register does with the value. -/
theorem exec_regwr_regOffset (ht : writeReg reg v s = t) :
    exec (.regwr (BitVec.ofNat 34 (regOffset reg)) v) s = .next (answered t .ok 0) := by
  simp only [exec, execRegwr, regOfOffset_regOffset, ht, respondOk_eq_answered]

/-- REGWR is refused where there is no register. -/
theorem exec_regwr_refused (ha : regOfOffset a = none) : exec (.regwr a v) s = .next (answered s .err 0) := by
  simp only [exec, execRegwr, ha, respondErr_eq_answered]

theorem writeReg_ctrl_of_start (hv : v.getLsbD 0 = true) : writeReg .ctrl v s = startEffects s := if_pos hv

theorem writeReg_ctrl_of_clear (hv : v.getLsbD 0 = false) : writeReg .ctrl v s = s := by
  simp only [writeReg, hv, Bool.false_eq_true, if_false]

end

/-- Settles O9, one clause per register of R30. -/
theorem regrdReturnsTheRegister : Obligations.RegrdReturnsTheRegister := by
  intro s
  exact ⟨exec_regrd_regOffset (reg := .ctrl) rfl,
    exec_regrd_regOffset (reg := .status) (statusWord_eq_ofNat s),
    exec_regrd_regOffset (reg := .width) (BitVec.ofNat_toNat ..).symm,
    exec_regrd_regOffset (reg := .height) (BitVec.ofNat_toNat ..).symm,
    exec_regrd_regOffset (reg := .policy) rfl,
    exec_regrd_regOffset (reg := .mode) (twoFlags_eq_ofNat ..),
    exec_regrd_regOffset (reg := .lanes) (BitVec.ofNat_toNat ..).symm,
    exec_regrd_regOffset (reg := .chunk) (BitVec.ofNat_toNat ..).symm,
    exec_regrd_regOffset (reg := .units) (BitVec.ofNat_toNat ..).symm,
    exec_regrd_regOffset (reg := .ien) (twoFlags_eq_ofNat ..),
    fun hwf => exec_regrd_regOffset (reg := .cap) (capWord_eq_ofNat hwf),
    exec_regrd_regOffset (reg := .memcap) rfl,
    fun _ ha => exec_regrd_refused (regOfOffset_eq_none ha)⟩

/-- Settles O10, one clause per register of R30. -/
theorem regwrWritesItsRegister : Obligations.RegwrWritesItsRegister := by
  intro s v
  exact ⟨fun hv => exec_regwr_regOffset (reg := .ctrl) (writeReg_ctrl_of_start hv),
    fun hv => exec_regwr_regOffset (reg := .ctrl) (writeReg_ctrl_of_clear hv),
    exec_regwr_regOffset (reg := .status) rfl,
    exec_regwr_regOffset (reg := .width) rfl,
    exec_regwr_regOffset (reg := .height) rfl,
    exec_regwr_regOffset (reg := .policy) rfl,
    exec_regwr_regOffset (reg := .mode) rfl,
    exec_regwr_regOffset (reg := .lanes) rfl,
    exec_regwr_regOffset (reg := .chunk) rfl,
    exec_regwr_regOffset (reg := .units) rfl,
    exec_regwr_regOffset (reg := .ien) rfl,
    exec_regwr_regOffset (reg := .cap) rfl,
    exec_regwr_regOffset (reg := .memcap) rfl,
    fun _ ha => exec_regwr_refused (regOfOffset_eq_none ha)⟩

/-! ## ACK (R159) -/

/-- Writing 1 to a W1C bit clears it (R32). -/
theorem and_not_eq_ite_false (flag written : Bool) : (flag && !written) = if written then false else flag := by
  cases written <;> simp

/-- Settles O15: ACK writes the two W1C bits and nothing else. -/
theorem ackClearsDoneAndWdrop : Obligations.AckClearsDoneAndWdrop := by
  intro s mask
  simp only [exec, execAck, ackEffects, and_not_eq_ite_false, respondOk_eq_answered]

/-! ## The sample memories (R155, R156, R158) -/

section
variable {s : State} {i : Addr} {v : Word}

/-- A sample index from `3*MEM_PIXELS` on names no cell (R152). -/
theorem cellExists_eq_false (hi : 3 * s.cfg.memPixels ≤ i.toNat) : cellExists s i = false := by
  rw [← Bool.not_eq_true, cellExists_iff]
  exact not_lt.2 hi

theorem exec_samprdI_of_lt (hi : i.toNat < 3 * s.cfg.memPixels) :
    exec (.samprdI i) s = .next (answered s .ok (BitVec.ofNat 32 (imemRead s i.toNat).toNat)) := by
  simp only [exec, execSamprdI, (cellExists_iff s i).2 hi, if_true, respondOk_eq_answered, BitVec.ofNat_toNat]

theorem exec_samprdI_past_end (hi : 3 * s.cfg.memPixels ≤ i.toNat) :
    exec (.samprdI i) s = .next (answered s .err 0) := by
  simp only [exec, execSamprdI, cellExists_eq_false hi, Bool.false_eq_true, if_false, respondErr_eq_answered]

/-- In IDLE and FAULT the sample is written (R156). -/
theorem exec_sampwrI_of_ne_run (hi : i.toNat < 3 * s.cfg.memPixels) (hs : s.sched.sst ≠ .run) :
    exec (.sampwrI i v) s = .next (answered (imemWrite s i.toNat (sampleOf v)) .ok 0) := by
  simp only [exec, execSampwrI, (cellExists_iff s i).2 hi, if_true, hs, if_false, respondOk_eq_answered]

/-- During a run the write is dropped (R156). -/
theorem exec_sampwrI_of_run (hi : i.toNat < 3 * s.cfg.memPixels) (hs : s.sched.sst = .run) :
    exec (.sampwrI i v) s = .next (answered (setWdrop s) .ok 0) := by
  simp only [exec, execSampwrI, (cellExists_iff s i).2 hi, hs, if_true, respondOk_eq_answered]

theorem exec_sampwrI_past_end (hi : 3 * s.cfg.memPixels ≤ i.toNat) :
    exec (.sampwrI i v) s = .next (answered s .err 0) := by
  simp only [exec, execSampwrI, cellExists_eq_false hi, Bool.false_eq_true, if_false, respondErr_eq_answered]

theorem exec_samprdO_past_end (hi : 3 * s.cfg.memPixels ≤ i.toNat) :
    exec (.samprdO i) s = .next (answered s .err 0) := by
  simp only [exec, execSamprdO, cellExists_eq_false hi, Bool.false_eq_true, if_false, respondErr_eq_answered]

end

/-- Settles O11. -/
theorem samprdInputReadsTheSample : Obligations.SamprdInputReadsTheSample :=
  fun _ _ => ⟨exec_samprdI_of_lt, exec_samprdI_past_end⟩

/-- Settles O12: the new IMEM is that of `imemWrite`. -/
theorem sampwrInputWritesOneSample : Obligations.SampwrInputWritesOneSample := by
  intro s i v
  refine ⟨fun hi hs => ?_, exec_sampwrI_of_run, exec_sampwrI_past_end⟩
  exact ⟨memPut s.imem i.toNat (sampleOf v), exec_sampwrI_of_ne_run hi hs,
    imemRead_imemWrite s i.toNat (sampleOf v)⟩

/-- Settles O14: SAMPWR.O tests neither the index nor SST. -/
theorem sampwrOutputIsAlwaysRefused : Obligations.SampwrOutputIsAlwaysRefused := by
  intro s i v
  exact congrArg Host.Outcome.next (respondErr_eq_answered s)

/-! ## Refused transactions (R152) -/

section
variable {w : Request}

/-- A word with a non-zero `zero` field is reserved (R111). -/
theorem decode_host_of_zero_ne (hz : w.extractLsb' 66 3 ≠ 0) : decode (.h w) = none := if_pos hz

/-- A word with `space = 3` is reserved (R111). -/
theorem decode_host_of_space_three (hs : w.extractLsb' 70 2 = 3) : decode (.h w) = none := by
  simp [decode, decodeHost, hs]

/-- With `space = 0` and an offset without a register, `we` alone tells the operation: START and ACK have
registers (R102). -/
theorem decode_host_of_no_register (hz : w.extractLsb' 66 3 = 0) (hs : w.extractLsb' 70 2 = 0)
    (ha : regOfOffset (w.extractLsb' 32 34) = none) :
    decode (.h w) = some (if w.getLsbD 69 then .regwr (w.extractLsb' 32 34) (w.extractLsb' 0 32)
      else .regrd (w.extractLsb' 32 34)) := by
  have hctrl : w.extractLsb' 32 34 ≠ 0x00#34 := fun h => by rw [h] at ha; cases ha
  have hstatus : w.extractLsb' 32 34 ≠ 0x04#34 := fun h => by rw [h] at ha; cases ha
  cases hwe : w[69] <;> simp [decode, decodeHost, hz, hs, hwe, isAckForm, isStartForm, hctrl, hstatus]

/-- With `space = 1` the word is a transaction on IMEM (R102). -/
theorem decode_host_of_space_one (hz : w.extractLsb' 66 3 = 0) (hs : w.extractLsb' 70 2 = 1) :
    decode (.h w) = some (if w.getLsbD 69 then .sampwrI (w.extractLsb' 32 34) (w.extractLsb' 0 32)
      else .samprdI (w.extractLsb' 32 34)) := by
  cases hwe : w[69] <;> simp [decode, decodeHost, hz, hs, hwe]

/-- With `space = 2` the word is a transaction on OMEM (R102). -/
theorem decode_host_of_space_two (hz : w.extractLsb' 66 3 = 0) (hs : w.extractLsb' 70 2 = 2) :
    decode (.h w) = some (if w.getLsbD 69 then .sampwrO (w.extractLsb' 32 34) (w.extractLsb' 0 32)
      else .samprdO (w.extractLsb' 32 34)) := by
  cases hwe : w[69] <;> simp [decode, decodeHost, hz, hs, hwe]

end

section
variable {s : State} {ms : List Move} {w : Request} (hw : s.env.agenda = .host w :: ms)
include hw

/-- A host word that is no operation is refused (R152). -/
theorem step_host_of_decode_none (hd : decode (.h w) = none) :
    step s = .next (answered (popped s ms) .err 0) := by
  simp only [step, fetch_host s w ms hw, hd, undecodable, respondErr_eq_answered]

/-- A host word that is an operation runs it. -/
theorem step_host_of_decode {i : Instr} (hd : decode (.h w) = some i) : step s = exec i (popped s ms) := by
  simp only [step, fetch_host s w ms hw, hd]

/-- A transaction on a register that does not exist is refused, whichever way it goes. -/
theorem step_host_no_register (hz : w.extractLsb' 66 3 = 0) (hs : w.extractLsb' 70 2 = 0)
    (ha : regOfOffset (w.extractLsb' 32 34) = none) : step s = .next (answered (popped s ms) .err 0) := by
  rw [step_host_of_decode hw (decode_host_of_no_register hz hs ha)]
  split
  · exact exec_regwr_refused ha
  · exact exec_regrd_refused ha

/-- A transaction on IMEM past its end is refused, whichever way it goes. -/
theorem step_host_imem_past_end (hz : w.extractLsb' 66 3 = 0) (hs : w.extractLsb' 70 2 = 1)
    (hi : 3 * s.cfg.memPixels ≤ (w.extractLsb' 32 34).toNat) :
    step s = .next (answered (popped s ms) .err 0) := by
  rw [step_host_of_decode hw (decode_host_of_space_one hz hs)]
  split
  · exact exec_sampwrI_past_end hi
  · exact exec_samprdI_past_end hi

/-- A transaction on OMEM is refused past its end, and refused everywhere when it writes (R158). -/
theorem step_host_omem_refused (hz : w.extractLsb' 66 3 = 0) (hs : w.extractLsb' 70 2 = 2)
    (hr : w.getLsbD 69 = true ∨ 3 * s.cfg.memPixels ≤ (w.extractLsb' 32 34).toNat) :
    step s = .next (answered (popped s ms) .err 0) := by
  rw [step_host_of_decode hw (decode_host_of_space_two hz hs)]
  split
  case isTrue => exact sampwrOutputIsAlwaysRefused ..
  case isFalse hread => exact exec_samprdO_past_end (hr.resolve_left hread)

end

/-- Settles O6: a reserved `zero` field is refused before anything else is looked at; below it, by `space`. -/
theorem refusedTransactionsChangeNothing : Obligations.RefusedTransactionsChangeNothing := by
  intro s ms w hw hrefused
  by_cases hz : w.extractLsb' 66 3 = 0
  case neg => exact step_host_of_decode_none hw (decode_host_of_zero_ne hz)
  rcases hrefused with hs | hz' | ⟨hs, ha⟩ | ⟨hs | hs, hi⟩ | ⟨hs, hwe⟩
  · exact step_host_of_decode_none hw (decode_host_of_space_three hs)
  · exact absurd hz hz'
  · exact step_host_no_register hw hz hs (regOfOffset_eq_none ha)
  · exact step_host_imem_past_end hw hz hs hi
  · exact step_host_omem_refused hw hz hs (.inr hi)
  · exact step_host_omem_refused hw hz hs (.inl hwe)

end Sys2Proof.Proofs
end

section
/-! The item list of the decomposition scheduler and its length (42_scheduler.md, R171 and R172). -/

open Sys2Proof Sys2Proof.Machine

namespace Sys2Proof.Proofs

/-- R171's `passall`: the policy is no filter or the image has no interior. -/
@[simp] theorem passAll_eq_true_iff (aw ah : Nat) (apol : Word) :
    passAll aw ah apol = true ↔ (apol ≠ 1 ∧ apol ≠ 2) ∨ aw < 3 ∨ ah < 3 := by
  simp [passAll, isFilter, or_assoc]

/-- Where something is to be filtered, the image has an interior. -/
theorem three_le_of_passAll_eq_false {aw ah : Nat} {apol : Word} (hp : passAll aw ah apol = false) :
    3 ≤ aw ∧ 3 ≤ ah := by
  have hnot : ¬((apol ≠ 1 ∧ apol ≠ 2) ∨ aw < 3 ∨ ah < 3) := by
    rw [← passAll_eq_true_iff, hp]
    decide
  omega

/-! ## The chunks of one segment -/

@[simp] theorem chunkCount_zero (len : Nat) : chunkCount 0 len = 1 := rfl

theorem chunkCount_of_pos {achunk : Nat} (hc : 0 < achunk) (len : Nat) :
    chunkCount achunk len = (len + achunk - 1) / achunk := if_neg hc.ne'

/-- A segment is cut into at least one chunk, and into no more chunks than it has pixels. -/
theorem chunkCount_bounds (achunk : Nat) {len : Nat} (hlen : 1 ≤ len) :
    1 ≤ chunkCount achunk len ∧ chunkCount achunk len ≤ len := by
  rcases Nat.eq_zero_or_pos achunk with rfl | hc
  · exact ⟨le_rfl, hlen⟩
  · rw [chunkCount_of_pos hc]
    have hmul : len * 1 ≤ len * achunk := Nat.mul_le_mul_left len hc
    exact ⟨(Nat.one_le_div_iff hc).2 (by omega),
      Nat.lt_succ_iff.1 ((Nat.div_lt_iff_lt_mul hc).2 (by rw [Nat.succ_mul]; omega))⟩

@[simp] theorem chunkCount_one (achunk : Nat) : chunkCount achunk 1 = 1 :=
  le_antisymm (chunkCount_bounds achunk le_rfl).2 (chunkCount_bounds achunk le_rfl).1

/-- A chunk cut off `r` pixels takes 1 off the rounded-up quotient, the last and shorter one too. -/
theorem roundUp_eq_roundUp_rest_succ {r step : Nat} (hr : 0 < r) (hstep : 0 < step) :
    (r + step - 1) / step = (r - min step r + step - 1) / step + 1 := by
  rw [← Nat.add_div_right _ hstep]
  rcases Nat.le_total step r with hfull | hlast
  · congr 1
    omega
  · have hdividend : r + step - 1 = r - 1 + step := by omega
    have hrest : r - min step r + step - 1 + step = step - 1 + step := by omega
    rw [hdividend, hrest, Nat.add_div_right _ hstep, Nat.add_div_right _ hstep,
      Nat.div_eq_of_lt (by omega), Nat.div_eq_of_lt (by omega)]

/-- The loop of R171 makes one chunk for every `step` pixels that are left, rounded up. -/
theorem length_cutSegment (conv : Bool) (y a : Nat) {len step : Nat} (hstep : 0 < step) :
    ∀ {fuel off : Nat}, len - off ≤ fuel →
      (cutSegment conv y a len step fuel off).length = (len - off + step - 1) / step
  | 0, off, hfuel => by
    have hnone : len - off + step - 1 < step := by omega
    rw [Nat.div_eq_of_lt hnone]
    rfl
  | fuel + 1, off, hfuel => by
    unfold cutSegment
    split
    case isTrue hleft =>
      have hrest : len - (off + min step (len - off)) ≤ fuel := by omega
      rw [List.length_cons, length_cutSegment conv y a hstep hrest, Nat.sub_add_eq,
        roundUp_eq_roundUp_rest_succ (Nat.sub_pos_of_lt hleft) hstep]
    case isFalse hdone =>
      have hnone : len - off + step - 1 < step := by omega
      rw [Nat.div_eq_of_lt hnone]
      rfl

/-- `ch(len)` of R172 counts the chunks of a segment of R171. -/
theorem length_segmentItems (achunk y : Nat) (conv : Bool) (a : Nat) {len : Nat} (hlen : 1 ≤ len) :
    (segmentItems achunk y (conv, a, len)).length = chunkCount achunk len := by
  rcases Nat.eq_zero_or_pos achunk with rfl | hc
  · calc (cutSegment conv y a len len len 0).length
        = (len + len - 1) / len := length_cutSegment conv y a hlen (Nat.sub_le len 0)
      _ = 1 := Nat.div_eq_of_lt_le (by omega) (by omega)
  · calc (segmentItems achunk y (conv, a, len)).length
        = (cutSegment conv y a len achunk len 0).length := by simp only [segmentItems, if_neg hc.ne']
      _ = (len + achunk - 1) / achunk := length_cutSegment conv y a hc (Nat.sub_le len 0)
      _ = chunkCount achunk len := (chunkCount_of_pos hc len).symm

/-! ## The items of one row -/

section
variable {aw ah : Nat} {apol : Word} (achunk : Nat) {y : Nat}

/-- A row with nothing to filter is one PASS segment. -/
theorem length_rowItems_of_whole (haw : 1 ≤ aw) (hrow : passAll aw ah apol = true ∨ y = 0 ∨ y = ah - 1) :
    (rowItems aw ah apol achunk y).length = chunkCount achunk aw := by
  have hsegs : rowSegments aw ah apol y = [(false, 0, aw)] :=
    if_pos (by simpa only [Bool.or_eq_true, beq_iff_eq, or_assoc] using hrow)
  rw [rowItems, hsegs, List.flatMap_singleton, length_segmentItems achunk y false 0 haw]

/-- An inner row is its left border pixel, its interior and its right border pixel. -/
theorem length_rowItems_of_inner (hp : passAll aw ah apol = false) (htop : y ≠ 0) (hbottom : y ≠ ah - 1) :
    (rowItems aw ah apol achunk y).length = 2 + chunkCount achunk (aw - 2) := by
  have hsegs : rowSegments aw ah apol y = [(false, 0, 1), (true, 1, aw - 2), (false, aw - 1, 1)] :=
    if_neg (by simp [hp, htop, hbottom])
  have hinterior : 1 ≤ aw - 2 := by have := three_le_of_passAll_eq_false hp; omega
  simp only [rowItems, hsegs, List.flatMap_cons, List.flatMap_nil, List.append_nil, List.length_append,
    length_segmentItems achunk y _ _ le_rfl, length_segmentItems achunk y _ _ hinterior, chunkCount_one]
  omega

end

/-! ## The whole list -/

section
variable {aw ah : Nat} {apol : Word} (achunk : Nat)

theorem nitems_of_passAll (hp : passAll aw ah apol = true) :
    nitems aw ah apol achunk = ah * chunkCount achunk aw := if_pos hp

theorem nitems_of_filtered (hp : passAll aw ah apol = false) :
    nitems aw ah apol achunk = 2 * chunkCount achunk aw + (ah - 2) * (2 + chunkCount achunk (aw - 2)) :=
  if_neg (by simp only [hp, Bool.false_eq_true, not_false_iff])

/-- The list has the items of row 0, row 1, and so on. -/
theorem length_items :
    (items aw ah apol achunk).length =
      ((List.range ah).map fun y => (rowItems aw ah apol achunk y).length).sum :=
  List.length_flatMap

/-- Rows of the same number of items add up to a product. -/
theorem sum_map_range_of_const {n k : Nat} {f : Nat → Nat} (hf : ∀ y < n, f y = k) :
    ((List.range n).map f).sum = n * k := by
  have hmap : (List.range n).map f = List.replicate n k :=
    List.eq_replicate_iff.2 ⟨by simp, by simpa using hf⟩
  rw [hmap, List.sum_replicate, smul_eq_mul]

/-- With nothing to filter every row is one segment; else the first and the last row are, and the `AH - 2` rows
between them are inner rows. -/
theorem length_items_eq_nitems (haw : 1 ≤ aw) :
    (items aw ah apol achunk).length = nitems aw ah apol achunk := by
  rw [length_items]
  cases hp : passAll aw ah apol with
  | true =>
    rw [nitems_of_passAll achunk hp]
    exact sum_map_range_of_const fun y _ => length_rowItems_of_whole achunk haw (.inl hp)
  | false =>
    obtain ⟨inner, rfl⟩ : ∃ inner, ah = inner + 2 :=
      Nat.exists_eq_add_of_le' (by have := three_le_of_passAll_eq_false hp; omega)
    have htop : (rowItems aw (inner + 2) apol achunk 0).length = chunkCount achunk aw :=
      length_rowItems_of_whole achunk haw (.inr (.inl rfl))
    have hbottom : (rowItems aw (inner + 2) apol achunk (inner + 1)).length = chunkCount achunk aw :=
      length_rowItems_of_whole achunk haw (.inr (.inr rfl))
    have hinner : ((List.range inner).map fun y => (rowItems aw (inner + 2) apol achunk (y + 1)).length).sum =
        inner * (2 + chunkCount achunk (aw - 2)) :=
      sum_map_range_of_const fun y hy => length_rowItems_of_inner achunk hp (by omega) (by omega)
    rw [nitems_of_filtered achunk hp, List.sum_range_succ, List.sum_range_succ', htop, hbottom, hinner,
      Nat.add_sub_cancel]
    omega

/-- A row has at least one item and at most one per pixel, so the same holds of the image (R172). -/
theorem nitems_bounds (haw : 1 ≤ aw) (hah : 1 ≤ ah) :
    1 ≤ nitems aw ah apol achunk ∧ nitems aw ah apol achunk ≤ aw * ah := by
  obtain ⟨hrow_pos, hrow_le⟩ := chunkCount_bounds achunk haw
  cases hp : passAll aw ah apol with
  | true =>
    rw [nitems_of_passAll achunk hp, Nat.mul_comm aw]
    exact ⟨Nat.mul_pos hah hrow_pos, Nat.mul_le_mul_left ah hrow_le⟩
  | false =>
    obtain ⟨hwide, hhigh⟩ := three_le_of_passAll_eq_false hp
    have hinner_le : 2 + chunkCount achunk (aw - 2) ≤ aw := by
      have := (chunkCount_bounds achunk (len := aw - 2) (by omega)).2
      omega
    rw [nitems_of_filtered achunk hp]
    refine ⟨by omega, ?_⟩
    calc 2 * chunkCount achunk aw + (ah - 2) * (2 + chunkCount achunk (aw - 2))
        ≤ 2 * aw + (ah - 2) * aw :=
          Nat.add_le_add (Nat.mul_le_mul_left 2 hrow_le) (Nat.mul_le_mul_left (ah - 2) hinner_le)
      _ = (2 + (ah - 2)) * aw := (Nat.add_mul ..).symm
      _ = aw * ah := by rw [Nat.add_sub_cancel' (by omega), Nat.mul_comm]

end

/-- Settles O18: the rows' lengths add up to the formula, whose `ch` is the model's `chunkCount`. -/
theorem nitemsIsTheLengthOfTheItemList : Obligations.NitemsIsTheLengthOfTheItemList := by
  intro aw ah apol achunk ch haw hah hch
  obtain rfl : ch = chunkCount achunk := funext hch
  refine ⟨(length_items_eq_nitems achunk haw).symm, ?_, nitems_bounds achunk haw hah⟩
  simp only [nitems, passAll_eq_true_iff]

end Sys2Proof.Proofs
end

section
/-! The lane's own operations: LDESC, WSHIFT and RETIRE (43_window_shifter.md, R193, R198 and R199). -/

open Sys2Proof Sys2Proof.Machine

namespace Sys2Proof.Proofs

section
variable {s : State} {L : Lane} (hact : actingLane s L)
include hact

/-- A lane acts during a run only, so its fault is always the first one (R190, R266). -/
theorem raiseFault_of_actingLane (code : FaultCode) : raiseFault code s = faulted s (faultNumber code) := by
  obtain ⟨hrun, -⟩ := hact
  exact raiseFault_of_ne_fault code s (by simp [hrun])

/-! ## LDESC (R193) -/

theorem exec_ldesc_of_not_load (hst : L.st ≠ .load) : exec .ldesc s = .next (faulted s 4) := by
  simp only [exec, execLdesc, laneStep_acting _ s L hact, hst, if_false, raiseFault_of_actingLane hact, faultNumber]

/-- A descriptor is illegal through its `kind` or through its `zero` field (R111). -/
theorem exec_ldesc_of_illegal (hst : L.st = .load)
    (hillegal : kindOfField (descKind L.dreg) = none ∨ descZero L.dreg ≠ 0) :
    exec .ldesc s = .next (faulted s 4) := by
  simp only [exec, execLdesc, laneStep_acting _ s L hact, hst, if_true, raiseFault_of_actingLane hact, faultNumber]
  cases hkind : kindOfField (descKind L.dreg) with
  | none => rfl
  | some kind => exact if_pos (hillegal.resolve_left (by simp [hkind]))

/-- A legal CONV descriptor at column 0 has no left neighbour to load (R193, R263). -/
theorem exec_ldesc_of_column_zero (hst : L.st = .load) (hkind : kindOfField (descKind L.dreg) = some .conv)
    (hzero : descZero L.dreg = 0) (hx : descX0 L.dreg = 0) : exec .ldesc s = .next (faulted s 3) := by
  simp [exec, execLdesc, laneStep_acting _ s L hact, hst, hkind, hzero, hx, raiseFault_of_actingLane hact,
    faultNumber]

/-- A legal descriptor of either kind, past all three faults. -/
theorem exec_ldesc_of_legal {kind : ItemKind} (hst : L.st = .load)
    (hkind : kindOfField (descKind L.dreg) = some kind) (hzero : descZero L.dreg = 0)
    (hx : ¬(kind = .conv ∧ descX0 L.dreg = 0)) :
    exec .ldesc s = .next (withLane s { L with
      kind := kind, y := descY L.dreg, x := descX0 L.dreg, rem := descN L.dreg,
      col := if kind = .conv then descX0 L.dreg - 1 else 0, wv := 0, av := .none, st := .run }) := by
  simp only [exec, execLdesc, laneStep_acting _ s L hact, hst, if_true, hkind, hzero, ne_eq, not_true, if_false, hx,
    setLane_eq_withLane]

/-! ## WSHIFT (R198) -/

theorem exec_wshift_of_not_convInProgress (hconv : ¬convInProgress L = true) :
    exec .wshift s = .next (faulted s 4) := by
  simp only [exec, execWshift, laneStep_acting _ s L hact, if_neg hconv, raiseFault_of_actingLane hact, faultNumber]

theorem exec_wshift_out_of_bounds (hconv : convInProgress L = true) (hbounds : ¬shiftInBounds s L = true) :
    exec .wshift s = .next (faulted s 3) := by
  simp only [exec, execWshift, laneStep_acting _ s L hact, if_pos hconv, if_neg hbounds,
    raiseFault_of_actingLane hact, faultNumber]

theorem exec_wshift_in_bounds (hconv : convInProgress L = true) (hbounds : shiftInBounds s L = true)
    (hcell : pixelExists s (pixelNumber s L.col.toNat (L.y.toNat + 1)) = true) :
    exec .wshift s = .next (withLane s { L with
      win := shiftWindow s L, col := L.col + 1, wv := nextWv L.wv, av := .none }) := by
  simp only [exec, execWshift, laneStep_acting _ s L hact, if_pos hconv, if_pos hbounds, if_pos hcell,
    setLane_eq_withLane]

/-! ## RETIRE (R199) -/

theorem exec_retire_of_done (hdone : L.st = .run ∧ L.rem = 0) :
    exec .retire s = .next { withLane s { L with st := .idle, kind := .none, wv := 0, av := .none } with
      sched := { s.sched with retired := s.sched.retired + 1 } } := by
  simp only [exec, execRetire, laneStep_acting _ s L hact, if_pos hdone, setLane_eq_withLane]

theorem exec_retire_of_not_done (hdone : ¬(L.st = .run ∧ L.rem = 0)) : exec .retire s = .next (faulted s 4) := by
  simp only [exec, execRetire, laneStep_acting _ s L hact, if_neg hdone, raiseFault_of_actingLane hact, faultNumber]

end

/-- Settles O32. -/
theorem retireFreesTheLane : Obligations.RetireFreesTheLane :=
  fun _ _ hact => ⟨exec_retire_of_done hact, exec_retire_of_not_done hact⟩

/-! ## The fields that LDESC and WSHIFT compute -/

theorem kindOfField_eq_none {k : BitVec 2} (hk : k = 0 ∨ k = 3) : kindOfField k = none := by
  rcases hk with rfl | rfl <;> rfl

/-- `COL <- x0 - 1` does not wrap: a CONV item does not begin at column 0 (R193). -/
theorem sub_one_eq_ofNat {x : Coord} (hx : x ≠ 0) : x - 1 = BitVec.ofNat 16 (x.toNat - 1) := by
  bv_omega

/-- The two bits of WV count to 3 and stay there (R198). -/
theorem nextWv_eq_ofNat (wv : BitVec 2) : nextWv wv = BitVec.ofNat 2 (min 3 (wv.toNat + 1)) := by
  revert wv
  decide

/-- Settles O25: the two kinds of legal descriptor, then the faults. -/
theorem ldescUnpacksTheDescriptor : Obligations.LdescUnpacksTheDescriptor := by
  intro s L hact
  refine ⟨fun hst hzero => ⟨fun hkind hx => ?conv, fun hkind => ?pass, fun hkind hx => ?columnZero⟩,
    fun hst hillegal => ?illegal, exec_ldesc_of_not_load hact⟩
  case conv =>
    have hconv : kindOfField (descKind L.dreg) = some .conv := congrArg kindOfField hkind
    rw [exec_ldesc_of_legal hact hst hconv hzero fun hcol => hx hcol.2, if_pos rfl, ← sub_one_eq_ofNat hx]
    rfl
  case pass =>
    have hpass : kindOfField (descKind L.dreg) = some .pass := congrArg kindOfField hkind
    exact exec_ldesc_of_legal hact hst hpass hzero (by simp)
  case columnZero => exact exec_ldesc_of_column_zero hact hst (congrArg kindOfField hkind) hzero hx
  case illegal =>
    rw [← or_assoc] at hillegal
    exact exec_ldesc_of_illegal hact hst (hillegal.imp_left kindOfField_eq_none)

/-- Settles O26: the lower bound of each read is WSHIFT's own test; the upper one is the image's fit, since the pixel
of row `Y + 1` is the last of the column. -/
theorem wshiftShiftsTheWindow : Obligations.WshiftShiftsTheWindow := by
  intro s L hact
  refine ⟨fun hst hkind hrem => ?inProgress, fun hnot => ?illegal⟩
  case inProgress =>
    have hconv : convInProgress L = true := (convInProgress_iff L).2 ⟨hst, hkind, hrem⟩
    refine ⟨fun htop hbottom hcol hfits => ?inside, fun hout => ?outside⟩
    case inside =>
      have hbounds : shiftInBounds s L = true := (shiftInBounds_iff s L).2 ⟨htop, hbottom, hcol⟩
      have hcell : pixelExists s (pixelNumber s L.col.toNat (L.y.toNat + 1)) = true :=
        (pixelExists_iff s _).2 (pixelNumber_lt _ _ _ _ _ hcol hbottom hfits)
      refine ⟨shiftWindow s L, ?_, shiftWindow_at s L⟩
      rw [exec_wshift_in_bounds hact hconv hbounds hcell, nextWv_eq_ofNat]
    case outside =>
      refine exec_wshift_out_of_bounds hact hconv fun hbounds => ?_
      obtain ⟨htop, hbottom, hcol⟩ := (shiftInBounds_iff s L).1 hbounds
      omega
  case illegal => exact exec_wshift_of_not_convInProgress hact (mt (convInProgress_iff L).1 hnot)

end Sys2Proof.Proofs
end

section
/-! The convolution accumulator (44_accumulator.md): the separable form of the sums (R213), the ranges it gives them
(R214), ACC.AVG (R211) and ACC.SOB (R212). -/

open Sys2Proof Sys2Proof.Machine

namespace Sys2Proof.Proofs

/-! ## The sums as double sums -/

theorem kernelSum_eq_sum (k : Tri (Tri Int)) (w : Window) (c : Fin 3) :
    kernelSum k w c = ∑ r : Fin 3, ∑ j : Fin 3, (k.get r).get j * ((w.at r j c).toNat : Int) := by
  simp only [kernelSum, Fin.sum_univ_three]

theorem boxSum_eq_sum (w : Window) (c : Fin 3) :
    boxSum w c = ∑ r : Fin 3, ∑ j : Fin 3, (w.at r j c).toNat := by
  simp only [boxSum, Fin.sum_univ_three]

/-- The nine-sample sum is that of the kernel of ones. -/
theorem boxSum_eq_kernelSum_ones (w : Window) (c : Fin 3) :
    (boxSum w c : Int) = kernelSum (.const (.const 1)) w c := by
  simp only [boxSum_eq_sum, kernelSum_eq_sum, tri_get_const, one_mul, Nat.cast_sum]

/-- The entries of `kx`, as R212 tabulates them. -/
theorem kx_get (r j : Fin 3) :
    (kx.get r).get j = (![![-1, 0, 1], ![-2, 0, 2], ![-1, 0, 1]] : Fin 3 → Fin 3 → Int) r j := by
  revert r j
  decide

/-- The entries of `ky`, as R212 tabulates them. -/
theorem ky_get (r j : Fin 3) :
    (ky.get r).get j = (![![-1, -2, -1], ![0, 0, 0], ![1, 2, 1]] : Fin 3 → Fin 3 → Int) r j := by
  revert r j
  decide

/-! ## The separable form (R213) -/

/-- The term of window column `j` under the column vector `u`: V1, V2 and VD of R213 are those of `[1,1,1]`, `[1,2,1]`
and `[-1,0,1]`. -/
def columnTerm (u : Tri Int) (w : Window) (c j : Fin 3) : Int :=
  u.i0 * (w.at 0 j c).toNat + u.i1 * (w.at 1 j c).toNat + u.i2 * (w.at 2 j c).toNat

/-- R213's reason: the sum of a kernel that is the outer product of a column vector `u` and a row vector `v` is the
sum under `v` of the column terms under `u`. -/
theorem kernelSum_of_outer {k : Tri (Tri Int)} {u v : Tri Int}
    (hk : ∀ r j : Fin 3, (k.get r).get j = u.get r * v.get j) (w : Window) (c : Fin 3) :
    kernelSum k w c =
      v.i0 * columnTerm u w c 0 + v.i1 * columnTerm u w c 1 + v.i2 * columnTerm u w c 2 := by
  simp only [kernelSum, hk]
  simp only [columnTerm, tri_get_zero, tri_get_one, tri_get_two]
  ring

section
variable (w : Window) (c : Fin 3)

theorem boxSum_eq_columnTerms :
    (boxSum w c : Int) =
      columnTerm ⟨1, 1, 1⟩ w c 0 + columnTerm ⟨1, 1, 1⟩ w c 1 + columnTerm ⟨1, 1, 1⟩ w c 2 := by
  have houter : ∀ r j : Fin 3,
      ((Tri.const (Tri.const 1) : Tri (Tri Int)).get r).get j = Tri.get ⟨1, 1, 1⟩ r * Tri.get ⟨1, 1, 1⟩ j := by
    decide
  rw [boxSum_eq_kernelSum_ones, kernelSum_of_outer houter]
  ring

theorem kernelSum_kx_eq_columnTerms :
    kernelSum kx w c = columnTerm ⟨1, 2, 1⟩ w c 2 - columnTerm ⟨1, 2, 1⟩ w c 0 := by
  have houter : ∀ r j : Fin 3, (kx.get r).get j = Tri.get ⟨1, 2, 1⟩ r * Tri.get ⟨-1, 0, 1⟩ j := by decide
  rw [kernelSum_of_outer houter]
  ring

theorem kernelSum_ky_eq_columnTerms :
    kernelSum ky w c =
      columnTerm ⟨-1, 0, 1⟩ w c 0 + 2 * columnTerm ⟨-1, 0, 1⟩ w c 1 + columnTerm ⟨-1, 0, 1⟩ w c 2 := by
  have houter : ∀ r j : Fin 3, (ky.get r).get j = Tri.get ⟨-1, 0, 1⟩ r * Tri.get ⟨1, 2, 1⟩ j := by decide
  rw [kernelSum_of_outer houter]
  ring

/-! ## The ranges (R213, R214) -/

/-- The range of V1. -/
theorem columnTerm_box_bounds (j : Fin 3) :
    0 ≤ columnTerm ⟨1, 1, 1⟩ w c j ∧ columnTerm ⟨1, 1, 1⟩ w c j ≤ 765 := by
  simp only [columnTerm]
  omega

/-- The range of V2. -/
theorem columnTerm_smooth_bounds (j : Fin 3) :
    0 ≤ columnTerm ⟨1, 2, 1⟩ w c j ∧ columnTerm ⟨1, 2, 1⟩ w c j ≤ 1020 := by
  simp only [columnTerm]
  omega

/-- The range of VD. -/
theorem columnTerm_difference_bounds (j : Fin 3) :
    -255 ≤ columnTerm ⟨-1, 0, 1⟩ w c j ∧ columnTerm ⟨-1, 0, 1⟩ w c j ≤ 255 := by
  simp only [columnTerm]
  omega

theorem boxSum_le : boxSum w c ≤ 2295 := by
  have hsum := boxSum_eq_columnTerms w c
  have h0 := columnTerm_box_bounds w c 0
  have h1 := columnTerm_box_bounds w c 1
  have h2 := columnTerm_box_bounds w c 2
  omega

theorem kernelSum_kx_bounds : -1020 ≤ kernelSum kx w c ∧ kernelSum kx w c ≤ 1020 := by
  have hsum := kernelSum_kx_eq_columnTerms w c
  have hleft := columnTerm_smooth_bounds w c 0
  have hright := columnTerm_smooth_bounds w c 2
  omega

theorem kernelSum_ky_bounds : -1020 ≤ kernelSum ky w c ∧ kernelSum ky w c ≤ 1020 := by
  have hsum := kernelSum_ky_eq_columnTerms w c
  have h0 := columnTerm_difference_bounds w c 0
  have h1 := columnTerm_difference_bounds w c 1
  have h2 := columnTerm_difference_bounds w c 2
  omega

/-! ## The sums are stored without loss (R214) -/

theorem toNat_ofNat_boxSum : (BitVec.ofNat 12 (boxSum w c)).toNat = boxSum w c := by
  have hle := boxSum_le w c
  rw [BitVec.toNat_ofNat, Nat.mod_eq_of_lt (by omega)]

/-- The 12-bit two's complement range holds every kernel sum (R214). -/
theorem toInt_ofInt_of_bounds {i : Int} (hi : -1020 ≤ i ∧ i ≤ 1020) : (BitVec.ofInt 12 i).toInt = i := by
  obtain ⟨hlow, hhigh⟩ := hi
  exact BitVec.toInt_ofInt_eq_self (by decide) (by norm_num; omega) (by norm_num; omega)

theorem toInt_ofInt_kernelSum_kx : (BitVec.ofInt 12 (kernelSum kx w c)).toInt = kernelSum kx w c :=
  toInt_ofInt_of_bounds (kernelSum_kx_bounds w c)

theorem toInt_ofInt_kernelSum_ky : (BitVec.ofInt 12 (kernelSum ky w c)).toInt = kernelSum ky w c :=
  toInt_ofInt_of_bounds (kernelSum_ky_bounds w c)

end

/-- Settles O35: V1, V2 and VD are the column terms, which have the ranges and give the sums. -/
theorem separableFormGivesTheSameSums : Obligations.SeparableFormGivesTheSameSums := by
  intro w c V1 V2 VD hV1 hV2 hVD
  have hbox : V1 = columnTerm ⟨1, 1, 1⟩ w c := funext fun j => by rw [hV1, columnTerm]; ring
  have hsmooth : V2 = columnTerm ⟨1, 2, 1⟩ w c := funext fun j => by rw [hV2, columnTerm]; ring
  have hdifference : VD = columnTerm ⟨-1, 0, 1⟩ w c := funext fun j => by rw [hVD, columnTerm]; ring
  subst hbox hsmooth hdifference
  refine ⟨fun j => ?ranges, boxSum_eq_columnTerms w c, kernelSum_kx_eq_columnTerms w c,
    kernelSum_ky_eq_columnTerms w c⟩
  case ranges =>
    obtain ⟨hbox₀, hbox₁⟩ := columnTerm_box_bounds w c j
    obtain ⟨hsmooth₀, hsmooth₁⟩ := columnTerm_smooth_bounds w c j
    exact ⟨hbox₀, hbox₁, hsmooth₀, hsmooth₁, columnTerm_difference_bounds w c j⟩

/-! ## ACC.AVG and ACC.SOB (R211, R212) -/

section
variable {s : State} {L : Lane}

theorem centredWindow_eq_win
    (hpre : L.st = .run ∧ L.kind = .conv ∧ L.rem ≠ 0 ∧ L.wv = 3 ∧ L.col.toNat = L.x.toNat + 2) :
    centredWindow? L = some L.win := by
  obtain ⟨hst, hkind, hrem, hwv, hcol⟩ := hpre
  exact (centredWindow_eq_some L L.win).2 ⟨hst, hkind, hrem, hwv, hcol, rfl⟩

theorem centredWindow_eq_none
    (hpre : ¬(L.st = .run ∧ L.kind = .conv ∧ L.rem ≠ 0 ∧ L.wv = 3 ∧ L.col.toNat = L.x.toNat + 2)) :
    centredWindow? L = none := by
  refine Option.eq_none_iff_forall_ne_some.2 fun w hw => hpre ?_
  obtain ⟨hst, hkind, hrem, hwv, hcol, -⟩ := (centredWindow_eq_some L w).1 hw
  exact ⟨hst, hkind, hrem, hwv, hcol⟩

variable (hact : actingLane s L)
include hact

theorem exec_accAvg_of_centred {w : Window} (hw : centredWindow? L = some w) :
    exec .accAvg s =
      .next (withLane s { L with sum := .of fun c => BitVec.ofNat 12 (boxSum w c), av := .avg }) := by
  simp only [exec, execAccAvg, laneStep_acting _ s L hact, hw, setLane_eq_withLane]

theorem exec_accAvg_of_not_centred (hw : centredWindow? L = none) : exec .accAvg s = .next (faulted s 4) := by
  simp only [exec, execAccAvg, laneStep_acting _ s L hact, hw, raiseFault_of_actingLane hact, faultNumber]

theorem exec_accSob_of_centred {w : Window} (hw : centredWindow? L = some w) :
    exec .accSob s =
      .next (withLane s { L with
        gx := .of fun c => BitVec.ofInt 12 (kernelSum kx w c)
        gy := .of fun c => BitVec.ofInt 12 (kernelSum ky w c)
        av := .sob }) := by
  simp only [exec, execAccSob, laneStep_acting _ s L hact, hw, setLane_eq_withLane]

theorem exec_accSob_of_not_centred (hw : centredWindow? L = none) : exec .accSob s = .next (faulted s 4) := by
  simp only [exec, execAccSob, laneStep_acting _ s L hact, hw, raiseFault_of_actingLane hact, faultNumber]

end

/-- Settles O27: SUM is exact since the nine-sample sum fits 12 bits. -/
theorem accAvgSumsTheWindow : Obligations.AccAvgSumsTheWindow := by
  intro s L hact
  refine ⟨fun hpre => ⟨_, exec_accAvg_of_centred hact (centredWindow_eq_win hpre), fun c => ?exact⟩,
    fun hpre => exec_accAvg_of_not_centred hact (centredWindow_eq_none hpre)⟩
  case exact => rw [tri_get_of, toNat_ofNat_boxSum, boxSum_eq_sum]

/-- Settles O28: GX and GY are exact since both kernel sums fit 12-bit two's complement. -/
theorem accSobFormsTheKernelSums : Obligations.AccSobFormsTheKernelSums := by
  intro s L hact
  refine ⟨fun hpre => ⟨_, _, exec_accSob_of_centred hact (centredWindow_eq_win hpre),
      fun c => ⟨?horizontal, ?vertical⟩⟩,
    fun hpre => exec_accSob_of_not_centred hact (centredWindow_eq_none hpre)⟩
  case horizontal =>
    rw [tri_get_of, toInt_ofInt_kernelSum_kx, kernelSum_eq_sum]
    simp only [kx_get]
  case vertical =>
    rw [tri_get_of, toInt_ofInt_kernelSum_ky, kernelSum_eq_sum]
    simp only [ky_get]

end Sys2Proof.Proofs
end

section
/-! The 8-bit clamped-output pipeline (45_output_pipeline.md): the clamp (R229), the samples the stage functions give,
the writing part that EMIT.AVG, EMIT.SOB and PASS share, EMIT.AVG (R232) and EMIT.SOB (R233). -/

open Sys2Proof Sys2Proof.Machine

namespace Sys2Proof.Proofs

/-! ## The clamp (R229) -/

/-- The comparison comes before the narrowing, so nothing is lost by the narrowing. -/
@[simp] theorem toNat_clamp8 (m : Nat) : (clamp8 m).toNat = min 255 m := by
  have hfits : min 255 m < 2 ^ 8 := by omega
  rw [clamp8, BitVec.toNat_ofNat, Nat.mod_eq_of_lt hfits]

/-- The mean of nine 8-bit samples is an 8-bit sample: `2295 = 9 * 255`. -/
theorem div9_le_of_le {n : Nat} (hn : n ≤ 2295) : div9 n ≤ 255 := by
  rw [div9]
  omega

/-- Settles O37. -/
theorem clampNeverWraps : Obligations.ClampNeverWraps := by
  refine ⟨toNat_clamp8, fun n hn => ⟨rfl, ?unclamped⟩⟩
  case unclamped => exact (toNat_clamp8 (div9 n)).trans (min_eq_right (div9_le_of_le hn))

/-! ## The samples of EMIT.AVG and EMIT.SOB (R232, R233) -/

theorem avgSample_eq (sum : Acc) : avgSample sum = BitVec.ofNat 8 (min 255 (sum.toNat / 9)) := rfl

theorem sobSample_eq (m : MagRound) (gx gy : Acc) :
    sobSample m gx gy = BitVec.ofNat 8 (min 255 (root m (gx.toInt ^ 2 + gy.toInt ^ 2).toNat)) := by
  rw [sobSample, clamp8, mag2, sq, sq]

/-! ## The shared writing part -/

section
variable {s : State} {L L' : Lane} {v : Fin 3 → Sample} (hact : actingLane s L)
include hact

/-- Inside an image that fits the memories: the three samples at pixel `(X, Y)`, every other cell as before. The lane
acts during a run, where OMEM reads as it was written (R303). -/
theorem writeLanePixel_inside (hx : L.x.toNat < s.sched.aw.toNat) (hy : L.y.toNat < s.sched.ah.toNat)
    (hfits : s.sched.aw.toNat * s.sched.ah.toNat ≤ s.cfg.memPixels) :
    ∃ m, writeLanePixel s L L' (.of v) = .next { withLane s L' with omem := m } ∧
      (∀ c : Fin 3,
        omemRead { s with omem := m } (3 * (L.y.toNat * s.sched.aw.toNat + L.x.toNat) + c.val) = v c) ∧
      (∀ i, i < 3 * (L.y.toNat * s.sched.aw.toNat + L.x.toNat) ∨
          3 * (L.y.toNat * s.sched.aw.toNat + L.x.toNat) + 3 ≤ i →
        omemRead { s with omem := m } i = omemRead s i) := by
  have hcell : lanePixel s L < s.cfg.memPixels := pixelNumber_lt _ _ _ _ _ hx hy hfits
  have hread : midRunFault s = false := by
    obtain ⟨hrun, -⟩ := hact
    exact midRunFault_of_ne_fault s (by simp [hrun])
  refine ⟨(omemWritePixel s (lanePixel s L) (.of v)).omem, ?next, fun c => ?pixel, fun i hi => ?frame⟩
  case next =>
    obtain ⟨-, -, -, hnext⟩ | ⟨-, -, hpast, -⟩ | ⟨hout, -⟩ := writeLanePixel_cases s L L' (.of v)
    · exact hnext
    · omega
    · omega
  case pixel => exact (omemRead_omemWritePixel_channel s (lanePixel s L) _ c hread).trans (tri_get_of v c)
  case frame =>
    refine omemRead_omemWritePixel_other s (lanePixel s L) _ i ?_
    rw [lanePixel, pixelNumber]
    omega

/-- Outside the image: E_BOUNDS (R263). -/
theorem writeLanePixel_outside (hout : s.sched.aw.toNat ≤ L.x.toNat ∨ s.sched.ah.toNat ≤ L.y.toNat) :
    writeLanePixel s L L' (.of v) = .next (faulted s 3) := by
  obtain ⟨hx, hy, -⟩ | ⟨hx, hy, -⟩ | ⟨-, hfault⟩ := writeLanePixel_cases s L L' (.of v)
  · omega
  · omega
  · exact hfault.trans (congrArg Host.Outcome.next (raiseFault_of_actingLane hact .bounds))

end

/-! ## EMIT.AVG and EMIT.SOB (R232, R233) -/

/-- EMIT.AVG and EMIT.SOB ask for a CONV item in progress and for valid accumulators of their own kind. -/
theorem convInProgress_and_av_iff (L : Lane) (av : AccValid) :
    convInProgress L = true ∧ L.av = av ↔ L.st = .run ∧ L.kind = .conv ∧ L.rem ≠ 0 ∧ L.av = av := by
  rw [convInProgress_iff, and_assoc, and_assoc]

section
variable {s : State} {L : Lane} (hact : actingLane s L)
include hact

theorem exec_emitAvg_of_ready (hready : L.st = .run ∧ L.kind = .conv ∧ L.rem ≠ 0 ∧ L.av = .avg) :
    exec .emitAvg s = writeLanePixel s L { L with x := L.x + 1, rem := L.rem - 1, av := .none }
      (.of fun c => BitVec.ofNat 8 (min 255 ((L.sum.get c).toNat / 9))) := by
  simp only [exec, execEmitAvg, laneStep_acting _ s L hact, if_pos ((convInProgress_and_av_iff L .avg).2 hready),
    avgSample_eq, emitAdvance]

theorem exec_emitAvg_of_not_ready (hready : ¬(L.st = .run ∧ L.kind = .conv ∧ L.rem ≠ 0 ∧ L.av = .avg)) :
    exec .emitAvg s = .next (faulted s 4) := by
  simp only [exec, execEmitAvg, laneStep_acting _ s L hact,
    if_neg (mt (convInProgress_and_av_iff L .avg).1 hready), raiseFault_of_actingLane hact, faultNumber]

theorem exec_emitSob_of_ready (hready : L.st = .run ∧ L.kind = .conv ∧ L.rem ≠ 0 ∧ L.av = .sob) :
    exec .emitSob s = writeLanePixel s L { L with x := L.x + 1, rem := L.rem - 1, av := .none }
      (.of fun c => BitVec.ofNat 8 (min 255 (root s.cfg.magRound
        ((L.gx.get c).toInt ^ 2 + (L.gy.get c).toInt ^ 2).toNat))) := by
  simp only [exec, execEmitSob, laneStep_acting _ s L hact, if_pos ((convInProgress_and_av_iff L .sob).2 hready),
    sobSample_eq, emitAdvance]

theorem exec_emitSob_of_not_ready (hready : ¬(L.st = .run ∧ L.kind = .conv ∧ L.rem ≠ 0 ∧ L.av = .sob)) :
    exec .emitSob s = .next (faulted s 4) := by
  simp only [exec, execEmitSob, laneStep_acting _ s L hact,
    if_neg (mt (convInProgress_and_av_iff L .sob).1 hready), raiseFault_of_actingLane hact, faultNumber]

end

/-- Settles O29: with its precondition EMIT.AVG is the shared writing part with the means, else it raises E_ILLEGAL. -/
theorem emitAvgWritesTheMean : Obligations.EmitAvgWritesTheMean := by
  intro s L hact
  refine ⟨fun hready => ?ready, exec_emitAvg_of_not_ready hact⟩
  case ready =>
    rw [exec_emitAvg_of_ready hact hready]
    exact ⟨writeLanePixel_inside hact, writeLanePixel_outside hact⟩

/-- Settles O30: with its precondition EMIT.SOB is the shared writing part with the clamped magnitudes, else it raises
E_ILLEGAL. -/
theorem emitSobWritesTheClampedMagnitude : Obligations.EmitSobWritesTheClampedMagnitude := by
  intro s L hact
  refine ⟨fun hready => ?ready, exec_emitSob_of_not_ready hact⟩
  case ready =>
    rw [exec_emitSob_of_ready hact hready]
    exact ⟨writeLanePixel_inside hact, writeLanePixel_outside hact⟩

end Sys2Proof.Proofs
end

section
/-! Border pixel passthrough (46_passthrough.md): PASS (R246), as the shared writing part with the pixel of IMEM. -/

open Sys2Proof Sys2Proof.Machine

namespace Sys2Proof.Proofs

section
variable {s : State} {L : Lane} (hact : actingLane s L)
include hact

/-- The sample indices of the copy, written out as R246 does: the same in IMEM as those the writing part fills in
OMEM. -/
theorem exec_pass_of_inProgress (hpass : L.st = .run ∧ L.kind = .pass ∧ L.rem ≠ 0) :
    exec .pass s = writeLanePixel s L { L with x := L.x + 1, rem := L.rem - 1 }
      (.of fun c => imemRead s (3 * (L.y.toNat * s.sched.aw.toNat + L.x.toNat) + c.val)) := by
  simp only [exec, execPass, laneStep_acting _ s L hact, if_pos ((passInProgress_iff L).2 hpass), imemPixel,
    lanePixel, pixelNumber, passAdvance]

theorem exec_pass_of_not_inProgress (hpass : ¬(L.st = .run ∧ L.kind = .pass ∧ L.rem ≠ 0)) :
    exec .pass s = .next (faulted s 4) := by
  simp only [exec, execPass, laneStep_acting _ s L hact, if_neg (mt (passInProgress_iff L).1 hpass),
    raiseFault_of_actingLane hact, faultNumber]

end

/-- Settles O31: with its precondition PASS is the shared writing part with the samples of IMEM, else it raises
E_ILLEGAL. -/
theorem passCopiesThePixel : Obligations.PassCopiesThePixel := by
  intro s L hact
  refine ⟨fun hpass => ?inProgress, exec_pass_of_not_inProgress hact⟩
  case inProgress =>
    rw [exec_pass_of_inProgress hact hpass]
    exact ⟨writeLanePixel_inside hact, writeLanePixel_outside hact⟩

end Sys2Proof.Proofs
end

section
/-! The encodings (30_encoding.md, R101 to R111): the fields of a word that is put together from its fields, the three
decoders row by row, and the encoder. -/

open Sys2Proof Sys2Proof.Machine

namespace Sys2Proof.Proofs

/-! ## The fields of a word of format H (R101) -/

section
variable (space : BitVec 2) (we : BitVec 1) (addr : Addr) (wdata : Word)

theorem toNat_hostWord :
    (hostWord space we addr wdata).toNat =
      ((space.toNat * 2 + we.toNat) * 2 ^ 3 * 2 ^ 34 + addr.toNat) * 2 ^ 32 + wdata.toNat := by
  simp only [hostWord, toNat_append_eq_add, BitVec.toNat_ofNat]
  norm_num

@[simp] theorem space_hostWord : (hostWord space we addr wdata).extractLsb' 70 2 = space := by
  apply BitVec.eq_of_toNat_eq
  rw [BitVec.extractLsb'_toNat, toNat_hostWord, Nat.shiftRight_eq_div_pow]
  omega

@[simp] theorem zero_hostWord : (hostWord space we addr wdata).extractLsb' 66 3 = 0#3 := by
  apply BitVec.eq_of_toNat_eq
  rw [BitVec.extractLsb'_toNat, toNat_hostWord, Nat.shiftRight_eq_div_pow, BitVec.toNat_ofNat]
  omega

@[simp] theorem addr_hostWord : (hostWord space we addr wdata).extractLsb' 32 34 = addr := by
  apply BitVec.eq_of_toNat_eq
  rw [BitVec.extractLsb'_toNat, toNat_hostWord, Nat.shiftRight_eq_div_pow]
  omega

@[simp] theorem wdata_hostWord : (hostWord space we addr wdata).extractLsb' 0 32 = wdata := by
  apply BitVec.eq_of_toNat_eq
  rw [BitVec.extractLsb'_toNat, toNat_hostWord, Nat.shiftRight_eq_div_pow]
  omega

@[simp] theorem we_hostWord : (hostWord space we addr wdata)[69] = decide (we = 1#1) := by
  rw [← BitVec.getLsbD_eq_getElem, BitVec.getLsbD, toNat_hostWord, Nat.testBit_eq_decide_div_mod_eq]
  refine decide_eq_decide.2 ⟨fun h => BitVec.eq_of_toNat_eq ?_, fun h => ?_⟩
  · rw [BitVec.toNat_ofNat]
    omega
  · rw [h, BitVec.toNat_ofNat]
    omega

end

/-! ## The fields of a descriptor (R104) -/

section
variable (kind : BitVec 2) (y x0 n : Coord)

theorem toNat_descWord :
    (descWord kind y x0 n).toNat =
      ((kind.toNat * 2 ^ 14 * 2 ^ 16 + y.toNat) * 2 ^ 16 + x0.toNat) * 2 ^ 16 + n.toNat := by
  simp only [descWord, toNat_append_eq_add, BitVec.toNat_ofNat]
  norm_num

@[simp] theorem descKind_descWord : descKind (descWord kind y x0 n) = kind := by
  apply BitVec.eq_of_toNat_eq
  rw [descKind, BitVec.extractLsb'_toNat, toNat_descWord, Nat.shiftRight_eq_div_pow]
  omega

@[simp] theorem descZero_descWord : descZero (descWord kind y x0 n) = 0#14 := by
  apply BitVec.eq_of_toNat_eq
  rw [descZero, BitVec.extractLsb'_toNat, toNat_descWord, Nat.shiftRight_eq_div_pow, BitVec.toNat_ofNat]
  omega

@[simp] theorem descY_descWord : descY (descWord kind y x0 n) = y := by
  apply BitVec.eq_of_toNat_eq
  rw [descY, BitVec.extractLsb'_toNat, toNat_descWord, Nat.shiftRight_eq_div_pow]
  omega

@[simp] theorem descX0_descWord : descX0 (descWord kind y x0 n) = x0 := by
  apply BitVec.eq_of_toNat_eq
  rw [descX0, BitVec.extractLsb'_toNat, toNat_descWord, Nat.shiftRight_eq_div_pow]
  omega

@[simp] theorem descN_descWord : descN (descWord kind y x0 n) = n := by
  apply BitVec.eq_of_toNat_eq
  rw [descN, BitVec.extractLsb'_toNat, toNat_descWord, Nat.shiftRight_eq_div_pow]
  omega

end

/-- A descriptor whose `zero` field is 0 is put together from its other four fields. -/
theorem descWord_fields {d : Descriptor} (hzero : descZero d = 0#14) :
    descWord (descKind d) (descY d) (descX0 d) (descN d) = d := by
  apply BitVec.eq_of_toNat_eq
  have hz := congrArg BitVec.toNat hzero
  rw [toNat_descWord]
  simp only [descZero, descKind, descY, descX0, descN, BitVec.extractLsb'_toNat, Nat.shiftRight_eq_div_pow,
    BitVec.toNat_ofNat] at hz ⊢
  have hd := d.isLt
  omega

/-! ## The decoders, row by row -/

/-- With `space = 0` the word is a register transaction: ACK and START are told from REGWR by offset and bit 0
(R102). -/
theorem decode_host_of_space_zero {w : Request} (hz : w.extractLsb' 66 3 = 0) (hs : w.extractLsb' 70 2 = 0) :
    decode (.h w) = some (if w[69] then
        if isAckForm (w.extractLsb' 32 34) then .ack (w.extractLsb' 0 32)
        else if isStartForm (w.extractLsb' 32 34) (w.extractLsb' 0 32) then .start
        else .regwr (w.extractLsb' 32 34) (w.extractLsb' 0 32)
      else .regrd (w.extractLsb' 32 34)) := by
  cases hwe : w[69] <;> simp [decode, decodeHost, hz, hs, hwe, apply_ite some]

/-- The two bits of `space`. -/
theorem space_cases (space : BitVec 2) : space = 0 ∨ space = 1 ∨ space = 2 ∨ space = 3 := by
  revert space
  decide

/-- A descriptor of kind 1 (R104). -/
theorem decode_desc_conv {d : Descriptor} (hzero : descZero d = 0) (hkind : descKind d = 1) :
    decode (.d d) = some (.dispatchConv (descY d) (descX0 d) (descN d)) := by
  simp [decode, decodeDesc, hzero, hkind]

/-- A descriptor of kind 2 (R104). -/
theorem decode_desc_pass {d : Descriptor} (hzero : descZero d = 0) (hkind : descKind d = 2) :
    decode (.d d) = some (.dispatchPass (descY d) (descX0 d) (descN d)) := by
  simp [decode, decodeDesc, hzero, hkind]

/-- A descriptor is no operation through its `zero` field or through its `kind` (R111). -/
theorem decode_desc_eq_none_iff (d : Descriptor) :
    decode (.d d) = none ↔ descKind d = 0 ∨ descKind d = 3 ∨ descZero d ≠ 0 := by
  by_cases hzero : descZero d = 0#14
  · rcases space_cases (descKind d) with hkind | hkind | hkind | hkind <;>
      simp [decode, decodeDesc, hzero, hkind]
  · simp [decode, decodeDesc, hzero]

/-- A code that is an operation is one of the eight of R107, and the operation has no operand. -/
theorem decode_uop_cases {c : UopCode} {i : Instr} (h : decode (.u c) = some i) :
    i ∈ [Instr.ldesc, .wshift, .accAvg, .accSob, .emitAvg, .emitSob, .pass, .retire] := by
  revert h
  simp only [decode, decodeUop]
  split <;> rintro ⟨⟩ <;> decide

theorem decode_uop_eq_none_iff (c : UopCode) : decode (.u c) = none ↔ c = 0 ∨ 9 ≤ c.toNat := by
  revert c
  decide

/-- Settles O3: format H by `space`, format D by the two fields, format U by its sixteen codes. -/
theorem onlyReservedWordsDecodeToNothing : Obligations.OnlyReservedWordsDecodeToNothing := by
  refine ⟨fun w => ?host, decode_desc_eq_none_iff, decode_uop_eq_none_iff⟩
  case host =>
    by_cases hz : w.extractLsb' 66 3 = 0
    case neg => exact iff_of_true (decode_host_of_zero_ne hz) (.inr hz)
    rcases space_cases (w.extractLsb' 70 2) with hs | hs | hs | hs
    · simp [decode_host_of_space_zero hz hs, hz, hs]
    · simp [decode_host_of_space_one hz hs, hz, hs]
    · simp [decode_host_of_space_two hz hs, hz, hs]
    · exact iff_of_true (decode_host_of_space_three hs) (.inl hs)

/-! ## Well-formed operations (R102) -/

/-- The one row whose operands are restricted: REGWR, after ACK and START have been told from it. -/
theorem wf_of_decode_host {w : Request} {i : Instr} (h : decode (.h w) = some i) : i.wf = true := by
  by_cases hz : w.extractLsb' 66 3 = 0
  case neg => simp [decode_host_of_zero_ne hz] at h
  rcases space_cases (w.extractLsb' 70 2) with hs | hs | hs | hs
  · rw [decode_host_of_space_zero hz hs] at h
    obtain rfl := Option.some.inj h
    split_ifs with hwe hack hstart
    · rfl
    · rfl
    · simp [Instr.wf, hack, hstart]
    · rfl
  · rw [decode_host_of_space_one hz hs] at h
    obtain rfl := Option.some.inj h
    split_ifs <;> rfl
  · rw [decode_host_of_space_two hz hs] at h
    obtain rfl := Option.some.inj h
    split_ifs <;> rfl
  · simp [decode_host_of_space_three hs] at h

theorem wf_of_decode_desc {d : Descriptor} {i : Instr} (h : decode (.d d) = some i) : i.wf = true := by
  revert h
  simp only [decode, decodeDesc]
  split_ifs <;> rintro ⟨⟩ <;> rfl

theorem wf_of_decode_uop {c : UopCode} {i : Instr} (h : decode (.u c) = some i) : i.wf = true := by
  have hmem := decode_uop_cases h
  simp only [List.mem_cons] at hmem
  rcases hmem with (rfl | rfl | rfl | rfl | rfl | rfl | rfl | rfl | hnil)
  case inr.inr.inr.inr.inr.inr.inr.inr => cases hnil
  all_goals rfl

/-- Settles O4, format by format. -/
theorem decodedOperationsAreWellFormed : Obligations.DecodedOperationsAreWellFormed
  | .h _, _, h => wf_of_decode_host h
  | .d _, _, h => wf_of_decode_desc h
  | .u _, _, h => wf_of_decode_uop h

/-! ## Decode after encode -/

section
variable (addr : Addr) (wdata : Word) (y x0 n : Coord)

theorem decode_regrd_word : decode (.h (hostWord 0 0 addr wdata)) = some (.regrd addr) := by
  simp [decode_host_of_space_zero]

theorem decode_write_word :
    decode (.h (hostWord 0 1 addr wdata)) = some (if isAckForm addr then .ack wdata
      else if isStartForm addr wdata then .start else .regwr addr wdata) := by
  simp [decode_host_of_space_zero]

theorem decode_samprdI_word : decode (.h (hostWord 1 0 addr wdata)) = some (.samprdI addr) := by
  simp [decode_host_of_space_one]

theorem decode_sampwrI_word : decode (.h (hostWord 1 1 addr wdata)) = some (.sampwrI addr wdata) := by
  simp [decode_host_of_space_one]

theorem decode_samprdO_word : decode (.h (hostWord 2 0 addr wdata)) = some (.samprdO addr) := by
  simp [decode_host_of_space_two]

theorem decode_sampwrO_word : decode (.h (hostWord 2 1 addr wdata)) = some (.sampwrO addr wdata) := by
  simp [decode_host_of_space_two]

theorem decode_conv_word : decode (.d (descWord 1 y x0 n)) = some (.dispatchConv y x0 n) := by
  simp [decode_desc_conv]

theorem decode_pass_word : decode (.d (descWord 2 y x0 n)) = some (.dispatchPass y x0 n) := by
  simp [decode_desc_pass]

/-- A write to STATUS is ACK. -/
theorem decode_ack_word : decode (.h (hostWord 0 1 0x04 wdata)) = some (.ack wdata) :=
  decode_write_word 0x04 wdata

variable {addr wdata}

/-- A write of a 1 to bit 0 of CTRL is START. -/
theorem decode_start_word (hstart : isStartForm addr wdata = true) :
    decode (.h (hostWord 0 1 addr wdata)) = some .start := by
  have hack : isAckForm addr = false := by
    simp only [isStartForm, Bool.and_eq_true, beq_iff_eq] at hstart
    rw [hstart.1]
    rfl
  rw [decode_write_word, hack, hstart]
  rfl

/-- Every other write is REGWR. -/
theorem decode_regwr_word (hack : isAckForm addr = false) (hstart : isStartForm addr wdata = false) :
    decode (.h (hostWord 0 1 addr wdata)) = some (.regwr addr wdata) := by
  rw [decode_write_word, hack, hstart]
  rfl

end

/-- Settles O2, one row of the tables per constructor. -/
theorem decodingAnEncodedOperationGivesItBack : Obligations.DecodingAnEncodedOperationGivesItBack := by
  intro i hwf
  cases i with
  | regrd addr => exact decode_regrd_word addr 0
  | regwr addr value =>
    simp only [Instr.wf, Bool.and_eq_true, Bool.not_eq_true'] at hwf
    exact decode_regwr_word hwf.1 hwf.2
  | samprdI index => exact decode_samprdI_word index 0
  | sampwrI index value => exact decode_sampwrI_word index value
  | samprdO index => exact decode_samprdO_word index 0
  | sampwrO index value => exact decode_sampwrO_word index value
  | ack mask => exact decode_ack_word mask
  | start => exact decode_start_word (by decide)
  | dispatchConv y x0 n => exact decode_conv_word y x0 n
  | dispatchPass y x0 n => exact decode_pass_word y x0 n
  | ldesc => rfl
  | wshift => rfl
  | accAvg => rfl
  | accSob => rfl
  | emitAvg => rfl
  | emitSob => rfl
  | pass => rfl
  | retire => rfl

/-- Settles O56: the concatenations are those of `hostWord` and `descWord`. -/
theorem everyWordDecodesByItsRow : Obligations.EveryWordDecodesByItsRow := by
  refine ⟨fun space we addr wdata => ⟨?regrd, ?ack, ?start, ?regwr, ?samprdI, ?sampwrI, ?samprdO, ?sampwrO⟩,
    fun y x0 n => ⟨decode_conv_word y x0 n, decode_pass_word y x0 n⟩⟩
  case regrd => rintro rfl rfl; exact decode_regrd_word addr wdata
  case ack => rintro rfl rfl rfl; exact decode_ack_word wdata
  case start =>
    rintro rfl rfl rfl hbit
    exact decode_start_word (by rw [isStartForm, hbit]; rfl)
  case regwr =>
    rintro rfl rfl hstatus hctrl
    refine decode_regwr_word (beq_false_of_ne hstatus) ?_
    rw [isStartForm, ← Bool.not_eq_true, Bool.and_eq_true, beq_iff_eq]
    exact hctrl
  case samprdI => rintro rfl rfl; exact decode_samprdI_word addr wdata
  case sampwrI => rintro rfl rfl; exact decode_sampwrI_word addr wdata
  case samprdO => rintro rfl rfl; exact decode_samprdO_word addr wdata
  case sampwrO => rintro rfl rfl; exact decode_sampwrO_word addr wdata

/-- Settles O1: twelve closed words. -/
theorem wordsDecodeAsTheSpecWritesThem : Obligations.WordsDecodeAsTheSpecWritesThem := by
  unfold Obligations.WordsDecodeAsTheSpecWritesThem
  decide

end Sys2Proof.Proofs
end

section
/-! The work items of the decomposition scheduler (42_scheduler.md, R171 to R173; 20_memory.md R90): what each item
covers, their order, that they partition the image, their descriptors (R105), and `units`. -/

open Sys2Proof Sys2Proof.Machine

namespace Sys2Proof.Proofs

/-! ## The order of the items -/

/-- Item `it` lies wholly before item `it'`, in an earlier row or further left in the same one. -/
def itemBefore (it it' : Item) : Prop := it.y < it'.y ∨ (it.y = it'.y ∧ it.x0 + it.n ≤ it'.x0)

/-- An item and one after it have no pixel in common. -/
theorem not_itemCovers_of_itemBefore {it it' : Item} {x y : Nat} (hbefore : itemBefore it it')
    (hcov : itemCovers it x y) : ¬itemCovers it' x y := by
  rintro ⟨hy', hx', -⟩
  obtain ⟨hy, -, hx⟩ := hcov
  rcases hbefore with hrow | ⟨-, hcol⟩ <;> omega

/-- In a list whose items lie one after the other, at most one entry covers a pixel. -/
theorem covering_index_unique {l : List Item} (hl : l.Pairwise itemBefore) {k k' : Nat} {it it' : Item} {x y : Nat}
    (hk : l[k]? = some it) (hcov : itemCovers it x y) (hk' : l[k']? = some it') (hcov' : itemCovers it' x y) :
    k' = k := by
  obtain ⟨hlt, rfl⟩ := List.getElem?_eq_some_iff.1 hk
  obtain ⟨hlt', rfl⟩ := List.getElem?_eq_some_iff.1 hk'
  rw [List.pairwise_iff_getElem] at hl
  rcases Nat.lt_trichotomy k k' with h | h | h
  · exact absurd hcov' (not_itemCovers_of_itemBefore (hl k k' hlt hlt' h) hcov)
  · exact h.symm
  · exact absurd hcov (not_itemCovers_of_itemBefore (hl k' k hlt' hlt h) hcov')

/-! ## The chunks of a segment -/

section
variable {conv : Bool} {y a len step : Nat}

/-- A chunk is not empty and lies in what is left of its segment. -/
theorem bounds_of_mem_cutSegment (hstep : 1 ≤ step) :
    ∀ {fuel off : Nat} {it : Item}, it ∈ cutSegment conv y a len step fuel off →
      it.conv = conv ∧ it.y = y ∧ 1 ≤ it.n ∧ a + off ≤ it.x0 ∧ it.x0 + it.n ≤ a + len
  | 0, _, _, hit => by simp [cutSegment] at hit
  | fuel + 1, off, it, hit => by
    unfold cutSegment at hit
    split at hit
    case isTrue hleft =>
      rcases List.mem_cons.1 hit with rfl | hrest
      · exact ⟨rfl, rfl, by simp only; omega, le_rfl, by simp only; omega⟩
      · obtain ⟨hconv, hy, hn, hlow, hhigh⟩ := bounds_of_mem_cutSegment hstep hrest
        exact ⟨hconv, hy, hn, by omega, hhigh⟩
    case isFalse => simp at hit

/-- The chunks cover what is left of the segment. -/
theorem exists_mem_cutSegment (hstep : 1 ≤ step) {x : Nat} (hx : x < a + len) :
    ∀ {fuel off : Nat}, len - off ≤ fuel → a + off ≤ x →
      ∃ it ∈ cutSegment conv y a len step fuel off, itemCovers it x y
  | 0, off, hfuel, hlow => by omega
  | fuel + 1, off, hfuel, hlow => by
    have hleft : off < len := by omega
    unfold cutSegment
    rw [if_pos hleft]
    by_cases hfirst : x < a + off + min step (len - off)
    · exact ⟨_, List.mem_cons_self, rfl, hlow, hfirst⟩
    · obtain ⟨it, hit, hcov⟩ := exists_mem_cutSegment hstep hx
        (fuel := fuel) (off := off + min step (len - off)) (by omega) (by omega)
      exact ⟨it, List.mem_cons_of_mem _ hit, hcov⟩

/-- The chunks are cut from left to right. -/
theorem pairwise_cutSegment (hstep : 1 ≤ step) :
    ∀ {fuel off : Nat}, (cutSegment conv y a len step fuel off).Pairwise itemBefore
  | 0, _ => .nil
  | fuel + 1, off => by
    unfold cutSegment
    split
    case isTrue =>
      refine List.pairwise_cons.2 ⟨fun it hit => ?_, pairwise_cutSegment hstep⟩
      obtain ⟨-, hy, -, hlow, -⟩ := bounds_of_mem_cutSegment hstep hit
      exact .inr ⟨hy.symm, by simp only; omega⟩
    case isFalse => exact .nil

end

section
variable {achunk y : Nat} {seg : Bool × Nat × Nat} (hlen : 1 ≤ seg.2.2)
include hlen

/-- CHUNK 0 stands for the whole segment, so a chunk has at least one pixel. -/
theorem one_le_chunk : 1 ≤ (if achunk = 0 then seg.2.2 else achunk) := by
  split <;> omega

theorem bounds_of_mem_segmentItems {it : Item} (hit : it ∈ segmentItems achunk y seg) :
    it.conv = seg.1 ∧ it.y = y ∧ 1 ≤ it.n ∧ seg.2.1 ≤ it.x0 ∧ it.x0 + it.n ≤ seg.2.1 + seg.2.2 :=
  bounds_of_mem_cutSegment (one_le_chunk hlen) hit

theorem exists_mem_segmentItems {x : Nat} (hlow : seg.2.1 ≤ x) (hhigh : x < seg.2.1 + seg.2.2) :
    ∃ it ∈ segmentItems achunk y seg, itemCovers it x y :=
  exists_mem_cutSegment (one_le_chunk hlen) hhigh (Nat.sub_le _ _) hlow

theorem pairwise_segmentItems : (segmentItems achunk y seg).Pairwise itemBefore :=
  pairwise_cutSegment (one_le_chunk hlen)

end

/-! ## The segments of a row -/

section
variable {aw ah : Nat} {apol : Word} {y : Nat}

/-- A row with nothing to filter is one PASS segment (R171). -/
theorem rowSegments_of_whole (hrow : passAll aw ah apol = true ∨ y = 0 ∨ y = ah - 1) :
    rowSegments aw ah apol y = [(false, 0, aw)] :=
  if_pos (by simpa only [Bool.or_eq_true, beq_iff_eq, or_assoc] using hrow)

/-- Every other row is its left border pixel, its interior and its right border pixel (R171). -/
theorem rowSegments_of_inner (hrow : ¬(passAll aw ah apol = true ∨ y = 0 ∨ y = ah - 1)) :
    rowSegments aw ah apol y = [(false, 0, 1), (true, 1, aw - 2), (false, aw - 1, 1)] :=
  if_neg (by simpa only [Bool.or_eq_true, beq_iff_eq, or_assoc] using hrow)

/-- The pixels that `apply` filters (R131, R136). -/
theorem interior_iff (x : Nat) :
    interior aw ah x y = true ↔ 1 ≤ x ∧ x + 2 ≤ aw ∧ 1 ≤ y ∧ y + 2 ≤ ah := by
  simp only [Machine.interior, Bool.and_eq_true, decide_eq_true_eq, and_assoc]

/-- What a segment of row `y` is: not empty, inside the row, and CONV exactly where there is something to filter. -/
structure SegmentSound (aw ah : Nat) (apol : Word) (y : Nat) (seg : Bool × Nat × Nat) : Prop where
  length : 1 ≤ seg.2.2
  inside : seg.2.1 + seg.2.2 ≤ aw
  kind : ∀ x, seg.2.1 ≤ x → x < seg.2.1 + seg.2.2 →
    (seg.1 = true ↔ (apol = 1 ∨ apol = 2) ∧ interior aw ah x y = true)

theorem segmentSound_of_mem (haw : 1 ≤ aw) (hy : y < ah) {seg : Bool × Nat × Nat}
    (hseg : seg ∈ rowSegments aw ah apol y) : SegmentSound aw ah apol y seg := by
  by_cases hrow : passAll aw ah apol = true ∨ y = 0 ∨ y = ah - 1
  · rw [rowSegments_of_whole hrow, List.mem_singleton] at hseg
    subst hseg
    refine ⟨haw, by simp, fun x _ hx => iff_of_false (by simp) ?_⟩
    rw [passAll_eq_true_iff] at hrow
    rw [interior_iff]
    rintro ⟨hpol, hin⟩
    rcases hrow with (hno | hsmall) | hborder
    · exact hpol.elim hno.1 hno.2
    · omega
    · omega
  · rw [rowSegments_of_inner hrow] at hseg
    rw [passAll_eq_true_iff] at hrow
    have hwide : 3 ≤ aw := by omega
    have hpol : apol = 1 ∨ apol = 2 := by tauto
    simp only [List.mem_cons, List.not_mem_nil, or_false] at hseg
    rcases hseg with rfl | rfl | rfl
    · refine ⟨le_rfl, by simp only; omega, fun x _ hx => iff_of_false (by simp) ?_⟩
      rw [interior_iff]
      simp only at hx
      omega
    · refine ⟨by simp only; omega, by simp only; omega, fun x hlow hhigh => iff_of_true rfl ⟨hpol, ?_⟩⟩
      rw [interior_iff]
      simp only at hlow hhigh
      omega
    · refine ⟨le_rfl, by simp only; omega, fun x hlow _ => iff_of_false (by simp) ?_⟩
      rw [interior_iff]
      simp only at hlow
      omega

/-- Every column of a row lies in a segment. -/
theorem exists_segment (haw : 1 ≤ aw) {x : Nat} (hx : x < aw) :
    ∃ seg ∈ rowSegments aw ah apol y, seg.2.1 ≤ x ∧ x < seg.2.1 + seg.2.2 := by
  by_cases hrow : passAll aw ah apol = true ∨ y = 0 ∨ y = ah - 1
  · exact ⟨(false, 0, aw), by simp [rowSegments_of_whole hrow], Nat.zero_le x, by simpa using hx⟩
  · rw [rowSegments_of_inner hrow]
    rcases Nat.eq_zero_or_pos x with rfl | hpos
    · exact ⟨(false, 0, 1), by simp, le_rfl, by simp⟩
    · by_cases hlast : x = aw - 1
      · exact ⟨(false, aw - 1, 1), by simp, by simp only; omega, by simp only; omega⟩
      · exact ⟨(true, 1, aw - 2), by simp, hpos, by simp only; omega⟩

/-- The segments of a row stand from left to right. -/
theorem pairwise_rowSegments :
    (rowSegments aw ah apol y).Pairwise fun seg seg' => seg.2.1 + seg.2.2 ≤ seg'.2.1 := by
  by_cases hrow : passAll aw ah apol = true ∨ y = 0 ∨ y = ah - 1
  · rw [rowSegments_of_whole hrow]
    exact List.pairwise_singleton _ _
  · rw [rowSegments_of_inner hrow]
    rw [passAll_eq_true_iff] at hrow
    have hwide : 3 ≤ aw := by omega
    simp only [List.pairwise_cons, List.mem_cons, List.not_mem_nil, or_false, forall_eq_or_imp, forall_eq,
      false_imp_iff, implies_true, List.Pairwise.nil, and_true]
    omega

end

/-! ## The item list -/

section
variable {aw ah : Nat} {apol : Word} {achunk : Nat}

/-- What an item of the list is: not empty, inside the image, and CONV exactly where there is something to filter. -/
structure ItemSound (aw ah : Nat) (apol : Word) (it : Item) : Prop where
  count : 1 ≤ it.n
  row : it.y < ah
  columns : it.x0 + it.n ≤ aw
  kind : ∀ x, it.x0 ≤ x → x < it.x0 + it.n →
    (it.conv = true ↔ (apol = 1 ∨ apol = 2) ∧ interior aw ah x it.y = true)

theorem mem_rowItems {y : Nat} {it : Item} :
    it ∈ rowItems aw ah apol achunk y ↔ ∃ seg ∈ rowSegments aw ah apol y, it ∈ segmentItems achunk y seg :=
  List.mem_flatMap

theorem mem_items {it : Item} :
    it ∈ items aw ah apol achunk ↔ ∃ y < ah, it ∈ rowItems aw ah apol achunk y := by
  simp only [items, List.mem_flatMap, List.mem_range]

variable (haw : 1 ≤ aw)
include haw

theorem itemSound_of_mem_rowItems {y : Nat} (hy : y < ah) {it : Item} (hit : it ∈ rowItems aw ah apol achunk y) :
    it.y = y ∧ ItemSound aw ah apol it := by
  obtain ⟨seg, hseg, hit⟩ := mem_rowItems.1 hit
  have hsound := segmentSound_of_mem haw hy hseg
  obtain ⟨hconv, rfl, hn, hlow, hhigh⟩ := bounds_of_mem_segmentItems hsound.length hit
  exact ⟨rfl, hn, hy, hhigh.trans hsound.inside,
    fun x hx hx' => hconv ▸ hsound.kind x (hlow.trans hx) (hx'.trans_le hhigh)⟩

theorem itemSound_of_mem_items {it : Item} (hit : it ∈ items aw ah apol achunk) : ItemSound aw ah apol it := by
  obtain ⟨y, hy, hit⟩ := mem_items.1 hit
  exact (itemSound_of_mem_rowItems haw hy hit).2

/-- Every pixel of the image lies in an item. -/
theorem exists_item_covers {x y : Nat} (hx : x < aw) (hy : y < ah) :
    ∃ it ∈ items aw ah apol achunk, itemCovers it x y := by
  obtain ⟨seg, hseg, hlow, hhigh⟩ := exists_segment (ah := ah) (apol := apol) (y := y) haw hx
  obtain ⟨it, hit, hcov⟩ := exists_mem_segmentItems (achunk := achunk) (y := y)
    (segmentSound_of_mem haw hy hseg).length hlow hhigh
  exact ⟨it, mem_items.2 ⟨y, hy, mem_rowItems.2 ⟨seg, hseg, hit⟩⟩, hcov⟩

theorem pairwise_rowItems {y : Nat} (hy : y < ah) : (rowItems aw ah apol achunk y).Pairwise itemBefore := by
  refine List.pairwise_flatMap.2 ⟨fun seg hseg => pairwise_segmentItems (segmentSound_of_mem haw hy hseg).length,
    pairwise_rowSegments.imp_of_mem fun {seg seg'} hseg hseg' hle it hit it' hit' => ?_⟩
  obtain ⟨-, hy₁, -, -, hhigh⟩ := bounds_of_mem_segmentItems (segmentSound_of_mem haw hy hseg).length hit
  obtain ⟨-, hy₂, -, hlow, -⟩ := bounds_of_mem_segmentItems (segmentSound_of_mem haw hy hseg').length hit'
  exact .inr ⟨hy₁.trans hy₂.symm, by omega⟩

/-- The list goes through the image row by row, and through each row from left to right. -/
theorem pairwise_items : (items aw ah apol achunk).Pairwise itemBefore := by
  refine List.pairwise_flatMap.2 ⟨fun y hy => pairwise_rowItems haw (List.mem_range.1 hy),
    List.pairwise_lt_range.imp_of_mem fun {y y'} hy hy' hlt it hit it' hit' => .inl ?_⟩
  rw [(itemSound_of_mem_rowItems haw (List.mem_range.1 hy) hit).1,
    (itemSound_of_mem_rowItems haw (List.mem_range.1 hy') hit').1]
  exact hlt

end

/-- Settles O19: existence by the coverage of rows and segments, uniqueness by the order of the list. -/
theorem itemsPartitionTheImage : Obligations.ItemsPartitionTheImage := by
  intro aw ah apol achunk haw _
  refine ⟨fun x y hx hy => ?partition, fun it hit => ?inside⟩
  case partition =>
    obtain ⟨it, hit, hcov⟩ := exists_item_covers (apol := apol) (achunk := achunk) haw hx hy
    obtain ⟨k, hk⟩ := List.mem_iff_getElem?.1 hit
    have hkind := (itemSound_of_mem_items haw hit).kind x hcov.2.1 hcov.2.2
    rw [hcov.1] at hkind
    exact ⟨k, it, hk, hcov, hkind, fun k' it' => covering_index_unique (pairwise_items haw) hk hcov⟩
  case inside =>
    have hsound := itemSound_of_mem_items haw hit
    exact ⟨hsound.count, hsound.row, hsound.columns⟩

/-! ## Descriptors of items (R105, R175) -/

section
variable (it : Item)

/-- CONV is kind 1 and PASS kind 2 (R104). -/
theorem descKind_itemWord : descKind (itemWord it) = if it.conv then 1 else 2 := descKind_descWord ..

theorem descZero_itemWord : descZero (itemWord it) = 0 := descZero_descWord ..

variable {aw ah : Nat} {apol : Word} {it} (hsound : ItemSound aw ah apol it) (haw : aw ≤ 65535) (hah : ah ≤ 65535)
include hsound

section
include haw

theorem toNat_descX0_itemWord : (descX0 (itemWord it)).toNat = it.x0 := by
  have hcol := hsound.columns
  rw [itemWord, descX0_descWord, BitVec.toNat_ofNat, Nat.mod_eq_of_lt (by omega)]

theorem toNat_descN_itemWord : (descN (itemWord it)).toNat = it.n := by
  have hcol := hsound.columns
  rw [itemWord, descN_descWord, BitVec.toNat_ofNat, Nat.mod_eq_of_lt (by omega)]

end

theorem toNat_descY_itemWord (hah : ah ≤ 65535) : (descY (itemWord it)).toNat = it.y := by
  have hrow := hsound.row
  rw [itemWord, descY_descWord, BitVec.toNat_ofNat, Nat.mod_eq_of_lt (by omega)]

/-- A CONV item is interior, its first and its last pixel included. -/
theorem interior_of_convItem (hconv : it.conv = true) :
    (apol = 1 ∨ apol = 2) ∧ 1 ≤ it.x0 ∧ it.x0 + it.n + 1 ≤ aw ∧ 1 ≤ it.y ∧ it.y + 2 ≤ ah := by
  have hn := hsound.count
  obtain ⟨hpol, hfirst⟩ := (hsound.kind it.x0 le_rfl (by omega)).1 hconv
  obtain ⟨-, hlast⟩ := (hsound.kind (it.x0 + it.n - 1) (by omega) (by omega)).1 hconv
  rw [interior_iff] at hfirst hlast
  exact ⟨hpol, by omega⟩

include haw hah in
theorem descWellFormed_itemWord : DescWellFormed aw ah apol (itemWord it) where
  zero := descZero_itemWord it
  count := by rw [toNat_descN_itemWord hsound haw]; exact hsound.count
  row := by rw [toNat_descY_itemWord hsound hah]; exact hsound.row
  columns := by
    rw [toNat_descX0_itemWord hsound haw, toNat_descN_itemWord hsound haw]
    exact hsound.columns
  kind := by
    rw [descKind_itemWord]
    cases it.conv <;> simp
  conv := by
    intro hkind
    have hconv : it.conv = true := by
      by_contra hpass
      rw [descKind_itemWord, if_neg hpass] at hkind
      cases hkind
    obtain ⟨hpol, hx, hx', hy, hy'⟩ := interior_of_convItem hsound hconv
    have hn := hsound.count
    rw [toNat_descX0_itemWord hsound haw, toNat_descN_itemWord hsound haw, toNat_descY_itemWord hsound hah,
      isFilter_iff]
    exact ⟨hy, hy', hx, hx', hpol, by omega, by omega⟩

end

theorem decode_itemWord (it : Item) :
    decode (.d (itemWord it)) = some (if it.conv
      then .dispatchConv (BitVec.ofNat 16 it.y) (BitVec.ofNat 16 it.x0) (BitVec.ofNat 16 it.n)
      else .dispatchPass (BitVec.ofNat 16 it.y) (BitVec.ofNat 16 it.x0) (BitVec.ofNat 16 it.n)) := by
  cases hconv : it.conv with
  | true => simpa [itemWord, hconv] using decode_conv_word _ _ _
  | false => simpa [itemWord, hconv] using decode_pass_word _ _ _

/-- Settles O20. -/
theorem schedulerDescriptorsAreWellFormed : Obligations.SchedulerDescriptorsAreWellFormed := by
  intro aw ah apol achunk haw hawMax _ hahMax it hit
  exact ⟨descWellFormed_itemWord (itemSound_of_mem_items haw hit) hawMax hahMax, decode_itemWord it⟩

/-! ## units (R173) -/

section
variable (nlanes n draw : Nat)

theorem units_sequential (dyn : Bool) : units false dyn nlanes n draw = 1 := rfl

theorem units_static : units true false nlanes n draw = unitsMax nlanes n := rfl

theorem units_dynamic : units true true nlanes n draw = 1 + draw % unitsMax nlanes n := rfl

variable {nlanes}

theorem unitsMax_bounds (hlanes : 1 ≤ nlanes) : 1 ≤ unitsMax nlanes n ∧ unitsMax nlanes n ≤ nlanes := by
  rw [unitsMax]
  omega

/-- A dynamic choice lies in `1 .. Umax`. -/
theorem units_dynamic_bounds (hlanes : 1 ≤ nlanes) :
    1 ≤ units true true nlanes n draw ∧ units true true nlanes n draw ≤ unitsMax nlanes n := by
  have hpos := (unitsMax_bounds n hlanes).1
  have hlt := Nat.mod_lt draw hpos
  rw [units_dynamic]
  omega

/-- Whatever MODE, LANES and the draw, the number of units is one of lanes that exist. -/
theorem units_bounds (hlanes : 1 ≤ nlanes) (par dyn : Bool) :
    1 ≤ units par dyn nlanes n draw ∧ units par dyn nlanes n draw ≤ nlanes := by
  have hmax := unitsMax_bounds n hlanes
  cases par with
  | false => exact ⟨le_rfl, hlanes⟩
  | true =>
    cases dyn with
    | false => exact hmax
    | true =>
      obtain ⟨hlow, hhigh⟩ := units_dynamic_bounds n draw hlanes
      exact ⟨hlow, hhigh.trans hmax.2⟩

/-- Every value of `1 .. Umax` is some draw's: `v - 1`. -/
theorem units_dynamic_pred {v : Nat} (hlow : 1 ≤ v) (hhigh : v ≤ unitsMax nlanes n) :
    units true true nlanes n (v - 1) = v := by
  rw [units_dynamic, Nat.mod_eq_of_lt (by omega)]
  omega

end

/-- Settles O17: one clause per setting of MODE, and the draw `v - 1` for the value `v`. -/
theorem unitsAreOneUmaxOrAnyValueBetween : Obligations.UnitsAreOneUmaxOrAnyValueBetween :=
  fun nlanes n hlanes => ⟨fun dyn draw => units_sequential nlanes n draw dyn, units_static nlanes n,
    fun draw => units_dynamic_bounds n draw hlanes, fun v hlow hhigh => ⟨v - 1, units_dynamic_pred n hlow hhigh⟩⟩

end Sys2Proof.Proofs
end

section
/-! What each operation can do to the machine, said once (41_host_commands.md, 42_scheduler.md, 43_window_shifter.md,
44_accumulator.md, 45_output_pipeline.md, 46_passthrough.md), and the claims about who writes what. -/

open Sys2Proof Sys2Proof.Machine

namespace Sys2Proof.Proofs

/-! ## Host operations -/

/-- The configuration registers and the interrupt enables, which only REGWR writes (R154), are the same. -/
def SameConfig (h h' : HostRegs) : Prop :=
  h.width = h'.width ∧ h.height = h'.height ∧ h.policy = h'.policy ∧ h.par = h'.par ∧ h.dyn = h'.dyn ∧
    h.lanesLimit = h'.lanesLimit ∧ h.chunk = h'.chunk ∧ h.ieDone = h'.ieDone ∧ h.ieErr = h'.ieErr

theorem SameConfig.refl (h : HostRegs) : SameConfig h h := ⟨rfl, rfl, rfl, rfl, rfl, rfl, rfl, rfl, rfl⟩

/-- Everything that host operation `i` can do to the machine, the response apart (R150 to R160). -/
inductive HostEffect (i : Instr) (s : State) : State → Prop
  /-- Nothing: a read, a refusal, a START that is ignored. -/
  | same : HostEffect i s s
  /-- Host registers take values; the fault code stays and DONE is not set. -/
  | registers {h : HostRegs} (hecode : h.ecode = s.host.ecode) (hdone : h.done = true → s.host.done = true)
      (hconfig : (∀ a v, i ≠ .regwr a v) → SameConfig h s.host) : HostEffect i s { s with host := h }
  /-- SAMPWR.I writes a cell of IMEM, outside a run. -/
  | sample {a : Addr} {v : Word} (hi : i = .sampwrI a v) (hs : s.sched.sst ≠ .run)
      (ha : a.toNat < 3 * s.cfg.memPixels) : HostEffect i s (imemWrite s a.toNat (sampleOf v))
  /-- SAMPRD.O draws a free value. -/
  | drawn : HostEffect i s (drawn s)
  /-- START refuses the shape. -/
  | fault (code : FaultCode) (hs : s.sched.sst = .idle) : HostEffect i s (faulted s (faultNumber code))
  /-- START is accepted. -/
  | start (hs : s.sched.sst = .idle) (hfit : startFault? s = none) : HostEffect i s (startRun s)

section
variable {i : Instr} {s : State}

theorem hostEffect_setWdrop : HostEffect i s (setWdrop s) := .registers rfl id fun _ => .refl _

theorem hostEffect_ackEffects (mask : Word) : HostEffect i s (ackEffects mask s) :=
  .registers rfl (fun h => ((Bool.and_eq_true ..).mp h).1) fun _ => .refl _

theorem hostEffect_startEffects : HostEffect i s (startEffects s) := by
  rcases startEffects_cases s with ⟨-, h⟩ | ⟨-, h⟩ | ⟨code, hs, -, h⟩ | ⟨hs, hfit, h⟩ <;> rw [h]
  · exact .same
  · exact hostEffect_setWdrop
  · exact .fault code hs
  · exact .start hs hfit

/-- A write to a register: START for CTRL, ACK for STATUS, and configuration otherwise (R154). -/
theorem hostEffect_writeReg (a : Addr) (v : Word) (reg : Reg) : HostEffect (.regwr a v) s (writeReg reg v s) := by
  have hconfig {h : HostRegs} (hecode : h.ecode = s.host.ecode) (hdone : h.done = s.host.done) :
      HostEffect (.regwr a v) s { s with host := h } :=
    .registers hecode (fun hd => hdone ▸ hd) fun hi => absurd rfl (hi a v)
  cases reg with
  | ctrl =>
    cases hv : v.getLsbD 0 with
    | true => exact writeReg_ctrl_of_start hv ▸ hostEffect_startEffects
    | false => exact (writeReg_ctrl_of_clear (s := s) hv).symm ▸ .same
  | status => exact hostEffect_ackEffects v
  | width => exact hconfig rfl rfl
  | height => exact hconfig rfl rfl
  | policy => exact hconfig rfl rfl
  | mode => exact hconfig rfl rfl
  | lanes => exact hconfig rfl rfl
  | chunk => exact hconfig rfl rfl
  | ien => exact hconfig rfl rfl
  | units => exact .same
  | cap => exact .same
  | memcap => exact .same

end

/-! ## Micro-operations -/

/-- What operation `i` leaves as it was in the record of the lane it changes (R52, R54, R55, R57). -/
def LaneKeeps (i : Instr) (L L' : Lane) : Prop :=
  ((∀ y x0 n, i ≠ .dispatchConv y x0 n ∧ i ≠ .dispatchPass y x0 n) → L'.dreg = L.dreg) ∧
    (i ≠ .wshift → L'.win = L.win) ∧
    (i ≠ .accAvg → L'.sum = L.sum) ∧
    (i ≠ .accSob → L'.gx = L.gx ∧ L'.gy = L.gy) ∧
    (i ≠ .ldesc → L'.y = L.y)

theorem LaneKeeps.refl (i : Instr) (L : Lane) : LaneKeeps i L L :=
  ⟨fun _ => rfl, fun _ => rfl, fun _ => rfl, fun _ => ⟨rfl, rfl⟩, fun _ => rfl⟩

/-- The advance of EMIT.AVG, EMIT.SOB and PASS leaves the registers above as they are. -/
theorem laneKeeps_of_advance (i : Instr) (L : Lane) (x rem : Coord) (av : AccValid) :
    LaneKeeps i L { L with x := x, rem := rem, av := av } :=
  ⟨fun _ => rfl, fun _ => rfl, fun _ => rfl, fun _ => ⟨rfl, rfl⟩, fun _ => rfl⟩

/-- The three operations that write OMEM (R22, R139). -/
def writesOmem (i : Instr) : Prop := i = .emitAvg ∨ i = .emitSob ∨ i = .pass

/-- Everything that micro-operation `i` of the acting lane, whose record is `L`, can answer. -/
inductive LaneEffect (i : Instr) (s : State) (L : Lane) : Result → Prop
  /-- It raises a fault (R263, R265). -/
  | fault (code : FaultCode) : LaneEffect i s L (.next (faulted s (faultNumber code)))
  /-- A busy lane goes on with its item and touches nothing but its own registers. -/
  | update {L' : Lane} (hbusy : L.st ≠ .idle) (hst : L'.st = .run) (hkeeps : LaneKeeps i L L') :
      LaneEffect i s L (.next (withLane s L'))
  /-- It writes pixel `(X, Y)` of OMEM and goes on. -/
  | write {L' : Lane} (v : Tri Sample) (hi : writesOmem i) (hbusy : L.st ≠ .idle) (hst : L'.st = .run)
      (hkeeps : LaneKeeps i L L') (hcell : lanePixel s L < s.cfg.memPixels) :
      LaneEffect i s L (.next (withLane (omemWritePixel s (lanePixel s L) v) L'))
  /-- It ends its item (R199). -/
  | retire (hst : L.st = .run) (hrem : L.rem = 0) :
      LaneEffect i s L (.next { withLane s { L with st := .idle, kind := .none, wv := 0, av := .none } with
        sched := { s.sched with retired := s.sched.retired + 1 } })
  /-- It stops the model: the image is larger than the memories (log 14). -/
  | noSuchCell (hbig : ¬s.sched.aw.toNat * s.sched.ah.toNat ≤ s.cfg.memPixels) :
      LaneEffect i s L (.fault .noSuchCell)

section
variable {s : State} {L : Lane} (hact : actingLane s L)
include hact

theorem laneEffect_ldesc : LaneEffect .ldesc s L (exec .ldesc s) := by
  by_cases hst : L.st = .load
  case neg =>
    rw [exec_ldesc_of_not_load hact hst]
    exact .fault .illegal
  by_cases hillegal : kindOfField (descKind L.dreg) = none ∨ descZero L.dreg ≠ 0
  · rw [exec_ldesc_of_illegal hact hst hillegal]
    exact .fault .illegal
  rw [not_or, not_not] at hillegal
  obtain ⟨hkind, hzero⟩ := hillegal
  obtain ⟨kind, hkind⟩ := Option.ne_none_iff_exists'.1 hkind
  by_cases hcol : kind = .conv ∧ descX0 L.dreg = 0
  · obtain ⟨rfl, hx⟩ := hcol
    rw [exec_ldesc_of_column_zero hact hst hkind hzero hx]
    exact .fault .bounds
  · rw [exec_ldesc_of_legal hact hst hkind hzero hcol]
    exact .update (by simp [hst]) rfl
      ⟨fun _ => rfl, fun _ => rfl, fun _ => rfl, fun _ => ⟨rfl, rfl⟩, fun hi => absurd rfl hi⟩

/-- In the image, WSHIFT finds its cells unless the image is larger than the memories. -/
theorem exec_wshift_no_such_cell (hconv : convInProgress L = true) (hbounds : shiftInBounds s L = true)
    (hcell : ¬pixelExists s (pixelNumber s L.col.toNat (L.y.toNat + 1)) = true) :
    exec .wshift s = .fault .noSuchCell := by
  simp only [exec, execWshift, laneStep_acting _ s L hact, if_pos hconv, if_pos hbounds, if_neg hcell]

theorem laneEffect_wshift : LaneEffect .wshift s L (exec .wshift s) := by
  by_cases hconv : convInProgress L = true
  case neg =>
    rw [exec_wshift_of_not_convInProgress hact hconv]
    exact .fault .illegal
  by_cases hbounds : shiftInBounds s L = true
  case neg =>
    rw [exec_wshift_out_of_bounds hact hconv hbounds]
    exact .fault .bounds
  obtain ⟨hst, -, -⟩ := (convInProgress_iff L).1 hconv
  by_cases hcell : pixelExists s (pixelNumber s L.col.toNat (L.y.toNat + 1)) = true
  · rw [exec_wshift_in_bounds hact hconv hbounds hcell]
    exact .update (by simp [hst]) hst
      ⟨fun _ => rfl, fun hi => absurd rfl hi, fun _ => rfl, fun _ => ⟨rfl, rfl⟩, fun _ => rfl⟩
  · rw [exec_wshift_no_such_cell hact hconv hbounds hcell]
    refine .noSuchCell fun hfits => hcell ?_
    obtain ⟨-, hrow, hcol⟩ := (shiftInBounds_iff s L).1 hbounds
    exact (pixelExists_iff s _).2 (pixelNumber_lt _ _ _ _ _ hcol hrow hfits)

theorem laneEffect_accAvg : LaneEffect .accAvg s L (exec .accAvg s) := by
  cases hw : centredWindow? L with
  | none =>
    rw [exec_accAvg_of_not_centred hact hw]
    exact .fault .illegal
  | some w =>
    obtain ⟨hst, -⟩ := (centredWindow_eq_some L w).1 hw
    rw [exec_accAvg_of_centred hact hw]
    exact .update (by simp [hst]) hst
      ⟨fun _ => rfl, fun _ => rfl, fun hi => absurd rfl hi, fun _ => ⟨rfl, rfl⟩, fun _ => rfl⟩

theorem laneEffect_accSob : LaneEffect .accSob s L (exec .accSob s) := by
  cases hw : centredWindow? L with
  | none =>
    rw [exec_accSob_of_not_centred hact hw]
    exact .fault .illegal
  | some w =>
    obtain ⟨hst, -⟩ := (centredWindow_eq_some L w).1 hw
    rw [exec_accSob_of_centred hact hw]
    exact .update (by simp [hst]) hst
      ⟨fun _ => rfl, fun _ => rfl, fun _ => rfl, fun hi => absurd rfl hi, fun _ => rfl⟩

/-- The writing part that EMIT.AVG, EMIT.SOB and PASS share. -/
theorem laneEffect_writeLanePixel {i : Instr} (hi : writesOmem i) (hst : L.st = .run) (x rem : Coord)
    (av : AccValid) (v : Tri Sample) :
    LaneEffect i s L (writeLanePixel s L { L with x := x, rem := rem, av := av } v) := by
  obtain ⟨-, -, hcell, hw⟩ | ⟨hx, hy, hpast, hw⟩ | ⟨-, hw⟩ :=
    writeLanePixel_cases s L { L with x := x, rem := rem, av := av } v <;> rw [hw]
  · exact .write v hi (by simp [hst]) hst (laneKeeps_of_advance i L x rem av) hcell
  · refine .noSuchCell fun hfits => ?_
    have hcell := pixelNumber_lt _ _ _ _ _ hx hy hfits
    rw [lanePixel, pixelNumber] at hpast
    omega
  · rw [raiseFault_of_actingLane hact]
    exact .fault .bounds

theorem laneEffect_emitAvg : LaneEffect .emitAvg s L (exec .emitAvg s) := by
  by_cases hready : L.st = .run ∧ L.kind = .conv ∧ L.rem ≠ 0 ∧ L.av = .avg
  · rw [exec_emitAvg_of_ready hact hready]
    exact laneEffect_writeLanePixel hact (.inl rfl) hready.1 _ _ _ _
  · rw [exec_emitAvg_of_not_ready hact hready]
    exact .fault .illegal

theorem laneEffect_emitSob : LaneEffect .emitSob s L (exec .emitSob s) := by
  by_cases hready : L.st = .run ∧ L.kind = .conv ∧ L.rem ≠ 0 ∧ L.av = .sob
  · rw [exec_emitSob_of_ready hact hready]
    exact laneEffect_writeLanePixel hact (.inr (.inl rfl)) hready.1 _ _ _ _
  · rw [exec_emitSob_of_not_ready hact hready]
    exact .fault .illegal

theorem laneEffect_pass : LaneEffect .pass s L (exec .pass s) := by
  by_cases hready : L.st = .run ∧ L.kind = .pass ∧ L.rem ≠ 0
  · rw [exec_pass_of_inProgress hact hready]
    exact laneEffect_writeLanePixel hact (.inr (.inr rfl)) hready.1 _ _ _ _
  · rw [exec_pass_of_not_inProgress hact hready]
    exact .fault .illegal

theorem laneEffect_retire : LaneEffect .retire s L (exec .retire s) := by
  by_cases hdone : L.st = .run ∧ L.rem = 0
  · rw [exec_retire_of_done hact hdone]
    exact .retire hdone.1 hdone.2
  · rw [exec_retire_of_not_done hact hdone]
    exact .fault .illegal

end

/-- The eight operations of format U (R107), in the order of their codes. -/
abbrev microOps : List Instr := [.ldesc, .wshift, .accAvg, .accSob, .emitAvg, .emitSob, .pass, .retire]

/-- A micro-operation that no lane takes does nothing: `SST ≠ RUN`, or no such lane (R190, log 10). -/
theorem exec_microOp_frozen {s : State} (h : s.sched.sst ≠ .run ∨ s.lanes[s.env.who]? = none) {i : Instr}
    (hi : i ∈ microOps) : exec i s = .next s := by
  have hfrozen : ∀ f, laneStep f s = .next s := by
    intro f
    rcases laneStep_cases f s with ⟨L, ⟨hrun, hL⟩, -⟩ | hnext
    · rcases h with hs | hnone
      · exact absurd hrun hs
      · simp [hnone] at hL
    · exact hnext
  simp only [microOps, List.mem_cons, List.not_mem_nil, or_false] at hi
  rcases hi with rfl | rfl | rfl | rfl | rfl | rfl | rfl | rfl <;> exact hfrozen _

/-- Settles O24. -/
theorem lanesStepOnlyDuringARun : Obligations.LanesStepOnlyDuringARun :=
  fun _ h _ hi => exec_microOp_frozen h hi

/-- The lane that a micro-operation of a run is for. -/
theorem actingLane_or_frozen (s : State) :
    (∃ L, actingLane s L) ∨ s.sched.sst ≠ .run ∨ s.lanes[s.env.who]? = none := by
  by_cases hs : s.sched.sst = .run
  · cases hL : s.lanes[s.env.who]? with
    | none => exact .inr (.inr rfl)
    | some L => exact .inl ⟨L, hs, hL⟩
  · exact .inr (.inl hs)

theorem laneEffect_microOp {s : State} {L : Lane} (hact : actingLane s L) {i : Instr} (hi : i ∈ microOps) :
    LaneEffect i s L (exec i s) := by
  simp only [microOps, List.mem_cons, List.not_mem_nil, or_false] at hi
  rcases hi with rfl | rfl | rfl | rfl | rfl | rfl | rfl | rfl
  · exact laneEffect_ldesc hact
  · exact laneEffect_wshift hact
  · exact laneEffect_accAvg hact
  · exact laneEffect_accSob hact
  · exact laneEffect_emitAvg hact
  · exact laneEffect_emitSob hact
  · exact laneEffect_pass hact
  · exact laneEffect_retire hact

/-! ## Every operation -/

/-- Everything that the delivery of a descriptor can answer (R175). -/
inductive DeliverEffect (w : Descriptor) (s : State) : Result → Prop
  /-- The guard holds, and an idle enabled lane receives the descriptor. -/
  | given {l : Nat} {L : Lane} (hready : dispatchReady s = true) (hl : l < s.sched.u.toNat)
      (hL : s.lanes[l]? = some L) (hidle : L.st = .idle) :
      DeliverEffect w s (.next { setLane s l { L with dreg := w, st := .load } with
        sched := { s.sched with next := s.sched.next + 1 } })
  /-- The guard does not hold (log 10). -/
  | nothing : DeliverEffect w s (.next s)

theorem deliverEffect_deliver (w : Descriptor) (s : State) : DeliverEffect w s (deliver w s) := by
  obtain ⟨hready, l, L, -, hl, hL, hidle, hd⟩ | ⟨-, hd⟩ := deliver_cases w s <;> rw [hd]
  · exact .given hready hl hL hidle
  · exact .nothing

/-- Everything that operation `i` can answer. -/
inductive ExecEffect (i : Instr) (s : State) : Result → Prop
  /-- A host operation: its effect and a response. -/
  | host {x : State} (r : Resp) (v : Word) (h : HostEffect i s x) : ExecEffect i s (.next (answered x r v))
  /-- DISPATCH: the delivery of a descriptor. -/
  | dispatch {w : Descriptor} {r : Result} (hi : ∃ y x0 n, i = .dispatchConv y x0 n ∨ i = .dispatchPass y x0 n)
      (h : DeliverEffect w s r) : ExecEffect i s r
  /-- A micro-operation of the acting lane. -/
  | lane {L : Lane} {r : Result} (hi : i ∈ microOps) (hact : actingLane s L) (h : LaneEffect i s L r) : ExecEffect i s r
  /-- A micro-operation that no lane takes. -/
  | frozen : ExecEffect i s (.next s)

theorem execEffect_microOp {s : State} {i : Instr} (hi : i ∈ microOps) : ExecEffect i s (exec i s) := by
  rcases actingLane_or_frozen s with ⟨L, hact⟩ | hfrozen
  · exact .lane hi hact (laneEffect_microOp hact hi)
  · rw [exec_microOp_frozen hfrozen hi]
    exact .frozen

section
variable {s : State} {i : Addr}

/-- Outside a run SAMPRD.O reads the cell (R157). -/
theorem exec_samprdO_of_ne_run (hi : i.toNat < 3 * s.cfg.memPixels) (hs : s.sched.sst ≠ .run) :
    exec (.samprdO i) s = .next (answered s .ok (BitVec.ofNat 32 (omemRead s i.toNat).toNat)) := by
  simp only [exec, execSamprdO, (cellExists_iff s i).2 hi, if_true, hs, if_false, respondOk_eq_answered,
    BitVec.ofNat_toNat]

/-- During a run SAMPRD.O draws a free value (R157, log 7). -/
theorem exec_samprdO_of_run (hi : i.toNat < 3 * s.cfg.memPixels) (hs : s.sched.sst = .run) :
    exec (.samprdO i) s =
      .next (answered (drawn s) .ok (BitVec.ofNat 32 (Config.busyRead s.env.draws).toNat)) := by
  simp only [exec, execSamprdO, (cellExists_iff s i).2 hi, if_true, hs, respondOk_eq_answered, BitVec.ofNat_toNat]

theorem execEffect_samprdO : ExecEffect (.samprdO i) s (exec (.samprdO i) s) := by
  rcases Nat.lt_or_ge i.toNat (3 * s.cfg.memPixels) with hi | hi
  · by_cases hs : s.sched.sst = .run
    · rw [exec_samprdO_of_run hi hs]
      exact .host _ _ .drawn
    · rw [exec_samprdO_of_ne_run hi hs]
      exact .host _ _ .same
  · rw [exec_samprdO_past_end hi]
    exact .host _ _ .same

theorem execEffect_samprdI : ExecEffect (.samprdI i) s (exec (.samprdI i) s) := by
  rcases Nat.lt_or_ge i.toNat (3 * s.cfg.memPixels) with hi | hi
  · rw [exec_samprdI_of_lt hi]
    exact .host _ _ .same
  · rw [exec_samprdI_past_end hi]
    exact .host _ _ .same

theorem execEffect_sampwrI (v : Word) : ExecEffect (.sampwrI i v) s (exec (.sampwrI i v) s) := by
  rcases Nat.lt_or_ge i.toNat (3 * s.cfg.memPixels) with hi | hi
  · by_cases hs : s.sched.sst = .run
    · rw [exec_sampwrI_of_run hi hs]
      exact .host _ _ hostEffect_setWdrop
    · rw [exec_sampwrI_of_ne_run hi hs]
      exact .host _ _ (.sample rfl hs hi)
  · rw [exec_sampwrI_past_end hi]
    exact .host _ _ .same

theorem execEffect_regrd : ExecEffect (.regrd i) s (exec (.regrd i) s) := by
  simp only [exec, execRegrd]
  cases regOfOffset i with
  | none => exact .host .err 0 .same
  | some reg => exact .host .ok _ .same

theorem execEffect_regwr (v : Word) : ExecEffect (.regwr i v) s (exec (.regwr i v) s) := by
  simp only [exec, execRegwr]
  cases regOfOffset i with
  | none => exact .host .err 0 .same
  | some reg => exact .host .ok 0 (hostEffect_writeReg i v reg)

end

/-- Every operation has one of the effects. -/
theorem execEffect_exec (i : Instr) (s : State) : ExecEffect i s (exec i s) := by
  cases i with
  | regrd addr => exact execEffect_regrd
  | regwr addr value => exact execEffect_regwr value
  | samprdI index => exact execEffect_samprdI
  | sampwrI index value => exact execEffect_sampwrI value
  | samprdO index => exact execEffect_samprdO
  | sampwrO index value => exact .host .err 0 .same
  | ack mask => exact .host .ok 0 (hostEffect_ackEffects mask)
  | start => exact .host .ok 0 hostEffect_startEffects
  | dispatchConv y x0 n => exact .dispatch ⟨y, x0, n, .inl rfl⟩ (deliverEffect_deliver _ s)
  | dispatchPass y x0 n => exact .dispatch ⟨y, x0, n, .inr rfl⟩ (deliverEffect_deliver _ s)
  | ldesc => exact execEffect_microOp (by simp)
  | wshift => exact execEffect_microOp (by simp)
  | accAvg => exact execEffect_microOp (by simp)
  | accSob => exact execEffect_microOp (by simp)
  | emitAvg => exact execEffect_microOp (by simp)
  | emitSob => exact execEffect_microOp (by simp)
  | pass => exact execEffect_microOp (by simp)
  | retire => exact execEffect_microOp (by simp)

/-- A host word is no micro-operation and no DISPATCH (R100, R102). -/
theorem not_inner_of_decode_host {w : Request} {i : Instr} (h : decode (.h w) = some i) :
    i ∉ microOps ∧ ¬∃ y x0 n, i = .dispatchConv y x0 n ∨ i = .dispatchPass y x0 n := by
  by_cases hz : w.extractLsb' 66 3 = 0
  case neg => simp [decode_host_of_zero_ne hz] at h
  rcases space_cases (w.extractLsb' 70 2) with hs | hs | hs | hs
  · rw [decode_host_of_space_zero hz hs] at h
    obtain rfl := Option.some.inj h
    split_ifs <;> simp
  · rw [decode_host_of_space_one hz hs] at h
    obtain rfl := Option.some.inj h
    split_ifs <;> simp
  · rw [decode_host_of_space_two hz hs] at h
    obtain rfl := Option.some.inj h
    split_ifs <;> simp
  · simp [decode_host_of_space_three hs] at h

/-! ## Who writes what (R21, R22, R52 to R57, R139) -/

/-- Settles O44, effect by effect. -/
theorem memoriesAndRegistersHaveTheirWriters : Obligations.MemoriesAndRegistersHaveTheirWriters := by
  intro i s t hexec
  have heffect : ExecEffect i s (.next t) := hexec ▸ execEffect_exec i s
  cases heffect with
  | host r v h =>
    cases h with
    | same => exact ⟨fun _ _ _ => rfl, fun _ => rfl, fun _ => SameConfig.refl _, rfl, rfl⟩
    | registers hecode hdone hconfig => exact ⟨fun _ _ _ => rfl, fun _ => rfl, hconfig, rfl, rfl⟩
    | sample hi hs ha =>
      exact ⟨fun _ _ _ => rfl, fun hno => absurd hi (hno _ _), fun _ => SameConfig.refl _, rfl, rfl⟩
    | drawn => exact ⟨fun _ _ _ => rfl, fun _ => rfl, fun _ => SameConfig.refl _, rfl, rfl⟩
    | fault code hs => exact ⟨fun _ _ _ => rfl, fun _ => rfl, fun _ => SameConfig.refl _, rfl, rfl⟩
    | start hs hfit => exact ⟨fun _ _ _ => rfl, fun _ => rfl, fun _ => SameConfig.refl _, rfl, rfl⟩
  | dispatch hi h =>
    cases h with
    | given hready hl hL hidle =>
      exact ⟨fun _ _ _ => rfl, fun _ => rfl, fun _ => SameConfig.refl _, rfl, List.length_set⟩
    | nothing => exact ⟨fun _ _ _ => rfl, fun _ => rfl, fun _ => SameConfig.refl _, rfl, rfl⟩
  | lane hi hact h =>
    cases h with
    | fault code => exact ⟨fun _ _ _ => rfl, fun _ => rfl, fun _ => SameConfig.refl _, rfl, rfl⟩
    | update hbusy hst hkeeps =>
      exact ⟨fun _ _ _ => rfl, fun _ => rfl, fun _ => SameConfig.refl _, rfl, List.length_set⟩
    | write v hwrites hbusy hst hkeeps hcell =>
      refine ⟨fun havg hsob hpass => ?_, fun _ => rfl, fun _ => SameConfig.refl _, rfl, List.length_set⟩
      rcases hwrites with hi | hi | hi
      exacts [absurd hi havg, absurd hi hsob, absurd hi hpass]
    | retire hst hrem =>
      exact ⟨fun _ _ _ => rfl, fun _ => rfl, fun _ => SameConfig.refl _, rfl, List.length_set⟩
  | frozen => exact ⟨fun _ _ _ => rfl, fun _ => rfl, fun _ => SameConfig.refl _, rfl, rfl⟩

/-- A lane's record after another one has been put in its place or in another lane's. -/
theorem laneKeeps_of_getElem?_set {i : Instr} {lanes : List Lane} {l l' : Nat} {L L' M M' : Lane}
    (hM : lanes[l']? = some M) (hL : lanes[l]? = some L) (hL' : (lanes.set l' M')[l]? = some L')
    (hkeeps : LaneKeeps i M M') : LaneKeeps i L L' := by
  by_cases h : l' = l
  · subst h
    rw [List.getElem?_set_self (List.getElem?_eq_some_iff.1 hM).1] at hL'
    cases hL'
    cases hM.symm.trans hL
    exact hkeeps
  · rw [List.getElem?_set_ne h] at hL'
    cases hL.symm.trans hL'
    exact .refl i L

/-- Settles O45, effect by effect. -/
theorem laneRegistersHaveTheirWriters : Obligations.LaneRegistersHaveTheirWriters := by
  intro i s t l L L' hexec hL hL'
  have heffect : ExecEffect i s (.next t) := hexec ▸ execEffect_exec i s
  have hsame : t.lanes = s.lanes → LaneKeeps i L L' := by
    intro hlanes
    rw [hlanes] at hL'
    cases hL.symm.trans hL'
    exact .refl i L
  cases heffect with
  | host r v h => cases h <;> exact hsame rfl
  | dispatch hi h =>
    cases h with
    | given hready hl hM hidle =>
      refine laneKeeps_of_getElem?_set hM hL hL'
        ⟨fun hno => ?_, fun _ => rfl, fun _ => rfl, fun _ => ⟨rfl, rfl⟩, fun _ => rfl⟩
      obtain ⟨y, x0, n, hi⟩ := hi
      obtain ⟨hconv, hpass⟩ := hno y x0 n
      exact (hi.elim hconv hpass).elim
    | nothing => exact hsame rfl
  | lane hi hact h =>
    obtain ⟨-, hM⟩ := hact
    cases h with
    | fault code => exact hsame rfl
    | update hbusy hst hkeeps => exact laneKeeps_of_getElem?_set hM hL hL' hkeeps
    | write v hwrites hbusy hst hkeeps hcell => exact laneKeeps_of_getElem?_set hM hL hL' hkeeps
    | retire hst hrem => exact laneKeeps_of_getElem?_set hM hL hL' (.refl i _)
  | frozen => exact hsame rfl

/-! ## SAMPRD.O, START and the cells a lane cannot reach (R157, R160, log 14) -/

/-- Settles O13: the value of the cell is `omemRead`'s, in which a written value shows unless a fault was raised during
a run. -/
theorem samprdOutputReadsTheSample : Obligations.SamprdOutputReadsTheSample := by
  intro s i
  refine ⟨fun hi hs => ⟨exec_samprdO_of_ne_run hi hs, fun v hv hno => ?stored, fun hfault hcode m => ?lost,
    fun r w => exec_samprdO_of_ne_run (s := answered s r w) hi hs⟩,
    fun hi hs => ⟨_, exec_samprdO_of_run hi hs⟩, exec_samprdO_past_end⟩
  case stored =>
    have hmid : midRunFault s = false := by rwa [← Bool.not_eq_true, midRunFault_iff]
    rw [omemRead_of_not_midRunFault s _ hmid, hv, Option.getD_some]
  case lost =>
    have hmid : midRunFault s = true := (midRunFault_iff s).2 ⟨hfault, hcode⟩
    rw [omemRead_of_midRunFault s _ hmid, omemRead_of_midRunFault { s with omem := m } _ hmid]

theorem exec_start (s : State) : exec .start s = .next (answered (startEffects s) .ok 0) := rfl

section
variable {s : State}

/-- The shape check passes exactly on a shape that is not empty and fits (R261, R262). -/
theorem startFault_eq_none_iff :
    startFault? s = none ↔ s.host.width ≠ 0 ∧ s.host.height ≠ 0 ∧
      s.host.width.toNat * s.host.height.toNat ≤ s.cfg.memPixels := by
  unfold startFault?
  split_ifs with hzero hbig
  · simp only [false_iff]
    tauto
  · simp only [false_iff]
    exact fun h => absurd hbig (not_lt.2 h.2.2)
  · simp only [true_iff]
    exact ⟨fun h => hzero (.inl h), fun h => hzero (.inr h), not_lt.1 hbig⟩

theorem startFault_of_empty (h : s.host.width = 0 ∨ s.host.height = 0) : startFault? s = some .shape := if_pos h

theorem startFault_of_large (hw : s.host.width ≠ 0) (hh : s.host.height ≠ 0)
    (hbig : s.cfg.memPixels < s.host.width.toNat * s.host.height.toNat) : startFault? s = some .size := by
  unfold startFault?
  rw [if_neg (not_or.2 ⟨hw, hh⟩), if_pos hbig]

theorem startEffects_of_fault (hs : s.sched.sst = .fault) : startEffects s = s := by simp [startEffects, hs]

theorem startEffects_of_run (hs : s.sched.sst = .run) : startEffects s = setWdrop s := by simp [startEffects, hs]

theorem startEffects_of_refused {code : FaultCode} (hs : s.sched.sst = .idle) (hf : startFault? s = some code) :
    startEffects s = faulted s (faultNumber code) := by
  have hne : s.sched.sst ≠ .fault := by simp [hs]
  simp only [startEffects, hs, hf, raiseFault_of_ne_fault code s hne]

theorem startEffects_of_accepted (hs : s.sched.sst = .idle) (hf : startFault? s = none) :
    startEffects s = startRun s := by
  simp only [startEffects, hs, hf]

end

/-- NOPF is set where the policy is no filter (R160). -/
theorem not_isFilter_eq_decide (policy : Word) : (!isFilter policy) = decide (policy ≠ 1 ∧ policy ≠ 2) := by
  rw [Bool.eq_iff_iff, Bool.not_eq_true', ← Bool.not_eq_true, isFilter_iff, decide_eq_true_eq, not_or]

/-- Settles O16, branch by branch of `startEffects`. -/
theorem startChecksTheShapeAndStartsTheRun : Obligations.StartChecksTheShapeAndStartsTheRun := by
  intro s
  rw [exec_start]
  refine ⟨fun hs => ?ignored, fun hs => ?dropped, fun hs hempty => ?empty, fun hs hw hh hbig => ?large,
    fun hs hw hh hfit => ?accepted⟩
  case ignored => rw [startEffects_of_fault hs]
  case dropped => rw [startEffects_of_run hs]; rfl
  case empty => rw [startEffects_of_refused hs (startFault_of_empty hempty)]; rfl
  case large => rw [startEffects_of_refused hs (startFault_of_large hw hh hbig)]; rfl
  case accepted =>
    refine ⟨_, Config.unitsDraw s.env.draws, rfl, ?_⟩
    rw [startEffects_of_accepted hs (startFault_eq_none_iff.2 ⟨hw, hh, hfit⟩), ← not_isFilter_eq_decide]
    rfl

/-- In the image, the writing part stops the model at a pixel the memories do not have. -/
theorem writeLanePixel_past_end {s : State} {L L' : Lane} {v : Tri Sample} (hx : L.x.toNat < s.sched.aw.toNat)
    (hy : L.y.toNat < s.sched.ah.toNat) (hpast : s.cfg.memPixels ≤ lanePixel s L) :
    writeLanePixel s L L' v = .fault .noSuchCell := by
  obtain ⟨-, -, hcell, -⟩ | ⟨-, -, -, hw⟩ | ⟨hout, -⟩ := writeLanePixel_cases s L L' v
  · omega
  · exact hw
  · omega

/-- Settles O33. -/
theorem laneAccessPastTheMemoryStops : Obligations.LaneAccessPastTheMemoryStops := by
  intro s L hact hst hrem
  refine ⟨fun hkind htop hbottom hcol hpast => ?wshift, fun hx hy hpast => ⟨fun hkind hav => ?emitAvg,
    fun hkind hav => ?emitSob, fun hkind => ?pass⟩⟩
  case wshift =>
    refine exec_wshift_no_such_cell hact ((convInProgress_iff L).2 ⟨hst, hkind, hrem⟩)
      ((shiftInBounds_iff s L).2 ⟨htop, hbottom, hcol⟩) ?_
    rw [pixelExists_iff, pixelNumber]
    omega
  case emitAvg => rw [exec_emitAvg_of_ready hact ⟨hst, hkind, hrem, hav⟩, writeLanePixel_past_end hx hy hpast]
  case emitSob => rw [exec_emitSob_of_ready hact ⟨hst, hkind, hrem, hav⟩, writeLanePixel_past_end hx hy hpast]
  case pass => rw [exec_pass_of_inProgress hact ⟨hst, hkind, hrem⟩, writeLanePixel_past_end hx hy hpast]

/-! ## The accumulators and fault entry (R214, R266, R268) -/

/-- Settles O34. -/
theorem accumulatorsHoldTheExactSums : Obligations.AccumulatorsHoldTheExactSums := fun w c =>
  ⟨boxSum_le w c, toNat_ofNat_boxSum w c, (kernelSum_kx_bounds w c).1, (kernelSum_kx_bounds w c).2,
    toInt_ofInt_kernelSum_kx w c, (kernelSum_ky_bounds w c).1, (kernelSum_ky_bounds w c).2,
    toInt_ofInt_kernelSum_ky w c⟩

/-- Settles O41. -/
theorem faultEntryRecordsTheFirstCode : Obligations.FaultEntryRecordsTheFirstCode := by
  intro s code code' hs
  have hfirst := raiseFault_of_ne_fault code s hs
  exact ⟨hfirst, faultNumber_ne_zero code, by rw [hfirst]; exact raiseFault_of_fault code' _ rfl⟩

end Sys2Proof.Proofs
end

section
/-! The step (00_scope.md R7, 42_scheduler.md R175 and R180, 43_window_shifter.md R190 and R191): which move is made,
what it comes to, and everything a step can do. -/

open Sys2Proof Sys2Proof.Machine

namespace Sys2Proof.Proofs

/-! ## A step is a move that is fetched and then performed -/

/-- The second half of `step`: what becomes of the fetched. -/
def perform (f : Fetched × State) : Result :=
  match f with
  | (.word w, s) =>
    match decode w with
    | some i => exec i s
    | none => undecodable w s
  | (.join, s) => .next (joinStep s)
  | (.reset, s) => .next (applyReset s)
  | (.illegal, s) => .next (raiseFault .illegal s)
  | (.idle, s) => .next s

theorem step_eq_perform (s : State) : step s = perform (fetch s) := rfl

/-- The step of one move. -/
def moveStep (m : Move) (s : State) : Result := perform (issue m s)

theorem step_of_agenda {s : State} {m : Move} {ms : List Move} (h : s.env.agenda = m :: ms) :
    step s = moveStep m (popped s ms) := by
  rw [step_eq_perform, fetch_agenda s m ms h, moveStep]

/-- With an empty agenda an enabled move is made, if there is one (log 2). -/
theorem step_of_empty {s : State} (h : s.env.agenda = []) :
    (enabledMoves s = [] ∧ step s = .next s) ∨ ∃ m ∈ enabledMoves s, step s = moveStep m (drawn s) := by
  rw [step_eq_perform]
  simp only [fetch, takeMove, h]
  cases hm : (enabledMoves s)[Config.turnDraw s.env.draws % (enabledMoves s).length]? with
  | some m => exact .inr ⟨m, List.mem_of_getElem? hm, rfl⟩
  | none =>
    left
    refine ⟨?_, rfl⟩
    by_contra hne
    rw [List.getElem?_eq_none_iff] at hm
    have hlt := Nat.mod_lt (Config.turnDraw s.env.draws) (List.length_pos_iff.2 hne)
    omega

/-- The enabled moves are DISPATCH and JOIN with their guards and the steps of the busy lanes, all during a run only
(R175, R180, R190). -/
theorem mem_enabledMoves {s : State} {m : Move} (hm : m ∈ enabledMoves s) :
    s.sched.sst = .run ∧ ((dispatchReady s = true ∧ ∃ choice, m = .dispatch choice) ∨
      (joinReady s = true ∧ m = .join) ∨ ∃ l, laneBusy s l = true ∧ m = .lane l) := by
  unfold enabledMoves at hm
  split at hm
  case isFalse => simp at hm
  case isTrue hrun =>
    refine ⟨hrun, ?_⟩
    simp only [List.mem_append, List.mem_map, List.mem_filter] at hm
    rcases hm with (hm | hm) | ⟨l, ⟨-, hbusy⟩, rfl⟩
    · split at hm
      case isTrue hready => exact .inl ⟨hready, _, List.mem_singleton.1 hm⟩
      case isFalse => simp at hm
    · split at hm
      case isTrue hready => exact .inr (.inl ⟨hready, List.mem_singleton.1 hm⟩)
      case isFalse => simp at hm
    · exact .inr (.inr ⟨l, hbusy, rfl⟩)

/-- Nothing is enabled only where every guard fails. -/
theorem enabledMoves_eq_nil {s : State} (h : enabledMoves s = []) :
    s.sched.sst ≠ .run ∨ (dispatchReady s = false ∧ joinReady s = false ∧ ∀ L ∈ s.lanes, L.st = .idle) := by
  by_cases hrun : s.sched.sst = .run
  case neg => exact .inl hrun
  right
  simp only [enabledMoves, if_pos hrun, List.append_eq_nil_iff, List.map_eq_nil_iff, List.filter_eq_nil_iff,
    List.mem_range] at h
  obtain ⟨⟨hdispatch, hjoin⟩, hlanes⟩ := h
  refine ⟨by simpa using hdispatch, by simpa using hjoin, fun L hL => ?_⟩
  obtain ⟨l, hl, rfl⟩ := List.mem_iff_getElem.1 hL
  have hnot := hlanes l hl
  rw [laneBusy_iff] at hnot
  by_contra hbusy
  exact hnot ⟨_, List.getElem?_eq_getElem hl, hbusy⟩

/-! ## What each move comes to -/

section
variable {s : State}

theorem perform_word {w : BusWord} {i : Instr} (hd : decode w = some i) : perform (.word w, s) = exec i s := by
  simp only [perform, hd]

theorem perform_undecodable {w : BusWord} (hd : decode w = none) : perform (.word w, s) = undecodable w s := by
  simp only [perform, hd]

/-- Every descriptor is delivered as it stands, whether it is an operation or not (R111, R175). -/
theorem perform_descr (d : Descriptor) (s : State) : perform (.word (.d d), s) = deliver d s := by
  by_cases hd : decode (.d d) = none
  · exact perform_undecodable hd
  · rw [decode_desc_eq_none_iff, not_or, not_or, not_not] at hd
    obtain ⟨hkind₀, hkind₃, hzero⟩ := hd
    have hfields := descWord_fields hzero
    rcases space_cases (descKind d) with hkind | hkind | hkind | hkind
    · exact absurd hkind hkind₀
    · rw [perform_word (decode_desc_conv hzero hkind)]
      rw [hkind] at hfields
      exact congrArg (deliver · s) hfields
    · rw [perform_word (decode_desc_pass hzero hkind)]
      rw [hkind] at hfields
      exact congrArg (deliver · s) hfields
    · exact absurd hkind hkind₃

theorem moveStep_host (w : Request) (s : State) : moveStep (.host w) s = perform (.word (.h w), s) := rfl

theorem moveStep_reset (s : State) : moveStep .reset s = .next (applyReset s) := rfl

theorem moveStep_join (s : State) : moveStep .join s = .next (joinStep s) := rfl

theorem moveStep_descr (choice : Nat) (d : Descriptor) (s : State) :
    moveStep (.descr choice d) s = deliver d (withWho s choice) := perform_descr d _

theorem moveStep_uop (l : Nat) (c : UopCode) (s : State) :
    moveStep (.uop l c) s = perform (.word (.u c), withWho s l) := rfl

theorem moveStep_dispatch {it : Item} (hready : dispatchReady s = true) (hit : nextItem? s = some it)
    (choice : Nat) : moveStep (.dispatch choice) s = deliver (itemWord it) (withWho s choice) := by
  simp only [moveStep, issue, hready, if_true, hit, perform_descr]

/-- Without its guard, or with no item left, a DISPATCH move does nothing (log 10, log 20). -/
theorem moveStep_dispatch_idle (h : dispatchReady s = false ∨ nextItem? s = none) (choice : Nat) :
    moveStep (.dispatch choice) s = .next s := by
  rcases h with hno | hnone
  · simp only [moveStep, issue, hno, Bool.false_eq_true, if_false, perform]
  · simp only [moveStep, issue, hnone, ite_self, perform]

/-- A lane takes no step outside a run, and one that does not exist takes none (R190, log 10). -/
theorem moveStep_lane_frozen {l : Nat} (h : s.sched.sst ≠ .run ∨ s.lanes[l]? = none) :
    moveStep (.lane l) s = .next s := by
  rcases h with hno | hnone
  · simp only [moveStep, issue, hno, if_false, perform]
  · simp only [moveStep, issue, hnone, ite_self, perform]

section
variable {l : Nat} {L : Lane} (hrun : s.sched.sst = .run) (hL : s.lanes[l]? = some L)
include hrun hL

theorem moveStep_lane_wait (hnext : nextUop s.sched.apol L = .wait) : moveStep (.lane l) s = .next s := by
  simp only [moveStep, issue, hrun, if_true, hL, hnext, perform]

theorem moveStep_lane_illegal (hnext : nextUop s.sched.apol L = .illegal) :
    moveStep (.lane l) s = .next (faulted (withWho s l) 4) := by
  have hne : (withWho s l).sched.sst ≠ .fault := by simp [hrun]
  simp only [moveStep, issue, hrun, if_true, hL, hnext, perform, raiseFault_of_ne_fault .illegal _ hne, faultNumber]

theorem moveStep_lane_issue {code : UopCode} (hnext : nextUop s.sched.apol L = .issue code) :
    moveStep (.lane l) s = perform (.word (.u code), withWho s l) := by
  simp only [moveStep, issue, hrun, if_true, hL, hnext]

/-- A lane runs the operation whose code its sequencer selects (R191). -/
theorem moveStep_lane_exec {code : UopCode} {i : Instr} (hnext : nextUop s.sched.apol L = .issue code)
    (hd : decode (.u code) = some i) : moveStep (.lane l) s = exec i (withWho s l) := by
  rw [moveStep_lane_issue hrun hL hnext, perform_word hd]

end

/-- A code that is no operation raises E_ILLEGAL in the acting lane (R111, R265). -/
theorem perform_illegal_code {L : Lane} (hact : actingLane s L) {c : UopCode} (hd : decode (.u c) = none) :
    perform (.word (.u c), s) = .next (faulted s 4) := by
  rw [perform_undecodable hd]
  exact (laneStep_acting _ s L hact).trans (congrArg Host.Outcome.next (raiseFault_of_actingLane hact .illegal))

end

/-! ## Everything a step can do -/

/-- What JOIN makes of a state in which its guard holds (R180). -/
def joined (s : State) : State :=
  { s with
    host := { s.host with done := true, units := s.sched.u }
    sched := { s.sched with sst := .idle } }

theorem joinStep_eq_joined {s : State} (hready : joinReady s = true) : joinStep s = joined s := if_pos hready

theorem joinStep_eq_self {s : State} (hready : ¬joinReady s = true) : joinStep s = s := if_neg hready

/-- Everything that a step other than reset can answer, from the state the fetch leaves. -/
inductive StepEffect (s : State) : Result → Prop
  /-- An operation is run. -/
  | exec {i : Instr} {r : Result} (h : ExecEffect i s r) : StepEffect s r
  /-- A reserved host word is refused (R152). -/
  | refused : StepEffect s (.next (answered s .err 0))
  /-- A descriptor is delivered (R175). -/
  | deliver {d : Descriptor} {r : Result} (h : DeliverEffect d s r) : StepEffect s r
  /-- A lane raises E_ILLEGAL (R265). -/
  | illegal (hrun : s.sched.sst = .run) : StepEffect s (.next (faulted s 4))
  /-- JOIN (R180). -/
  | join (hready : joinReady s = true) : StepEffect s (.next (joined s))
  /-- No agent takes a step. -/
  | nothing : StepEffect s (.next s)

theorem stepEffect_word (w : BusWord) (s : State) : StepEffect s (perform (.word w, s)) := by
  cases hd : decode w with
  | some i =>
    rw [perform_word hd]
    exact .exec (execEffect_exec i s)
  | none =>
    cases w with
    | h w => rw [perform_undecodable hd]; exact .refused
    | d w => rw [perform_descr]; exact .deliver (deliverEffect_deliver w s)
    | u w =>
      rcases laneStep_cases (fun _ => .next (raiseFault .illegal s)) s with ⟨L, hact, -⟩ | hnext
      · rw [perform_illegal_code hact hd]
        exact .illegal hact.1
      · rw [perform_undecodable hd, undecodable, hnext]
        exact .nothing

/-- Every move but reset has one of the effects, for some choice of the acting lane. -/
theorem stepEffect_moveStep {m : Move} (hm : m ≠ .reset) (s : State) :
    ∃ l, StepEffect (withWho s l) (moveStep m s) := by
  have hself : withWho s s.env.who = s := rfl
  cases m with
  | reset => exact absurd rfl hm
  | host w => exact ⟨s.env.who, hself ▸ stepEffect_word (.h w) s⟩
  | descr choice d => exact ⟨choice, stepEffect_word (.d d) _⟩
  | uop l c => exact ⟨l, stepEffect_word (.u c) _⟩
  | join =>
    refine ⟨s.env.who, ?_⟩
    rw [hself, moveStep_join]
    by_cases hready : joinReady s = true
    · rw [joinStep_eq_joined hready]
      exact .join hready
    · rw [joinStep_eq_self hready]
      exact .nothing
  | dispatch choice =>
    by_cases h : dispatchReady s = false ∨ nextItem? s = none
    · refine ⟨s.env.who, ?_⟩
      rw [hself, moveStep_dispatch_idle h]
      exact .nothing
    · rw [not_or, Bool.not_eq_false] at h
      obtain ⟨hready, hsome⟩ := h
      obtain ⟨it, hit⟩ := Option.ne_none_iff_exists'.1 hsome
      refine ⟨choice, ?_⟩
      rw [moveStep_dispatch hready hit]
      exact .deliver (deliverEffect_deliver _ _)
  | lane l =>
    by_cases h : s.sched.sst ≠ .run ∨ s.lanes[l]? = none
    · refine ⟨s.env.who, ?_⟩
      rw [hself, moveStep_lane_frozen h]
      exact .nothing
    · rw [not_or, not_not] at h
      obtain ⟨hrun, hsome⟩ := h
      obtain ⟨L, hL⟩ := Option.ne_none_iff_exists'.1 hsome
      cases hnext : nextUop s.sched.apol L with
      | wait =>
        refine ⟨s.env.who, ?_⟩
        rw [hself, moveStep_lane_wait hrun hL hnext]
        exact .nothing
      | issue code =>
        refine ⟨l, ?_⟩
        rw [moveStep_lane_issue hrun hL hnext]
        exact stepEffect_word (.u code) _
      | illegal =>
        refine ⟨l, ?_⟩
        rw [moveStep_lane_illegal hrun hL hnext]
        exact .illegal hrun

/-- Everything a step can do: reset, or one of the effects, after the fetch has taken a move off the agenda. -/
theorem step_cases (s : State) :
    (∃ ms, s.env.agenda = .reset :: ms ∧ step s = .next (applyReset (popped s ms))) ∨
      ∃ e : Env, e.agenda = s.env.agenda.tail ∧ e.epoch = s.env.epoch ∧ StepEffect { s with env := e } (step s) := by
  cases hagenda : s.env.agenda with
  | cons m ms =>
    rw [step_of_agenda hagenda]
    by_cases hm : m = .reset
    · subst hm
      exact .inl ⟨ms, rfl, moveStep_reset _⟩
    · obtain ⟨l, h⟩ := stepEffect_moveStep hm (popped s ms)
      exact .inr ⟨{ s.env with agenda := ms, who := l }, rfl, rfl, h⟩
  | nil =>
    right
    rcases step_of_empty hagenda with ⟨-, h⟩ | ⟨m, hm, h⟩
    · exact ⟨s.env, hagenda, rfl, by rw [h]; exact .nothing⟩
    · have hne : m ≠ .reset := by
        rintro rfl
        obtain ⟨-, ⟨-, _, h⟩ | ⟨-, h⟩ | ⟨_, -, h⟩⟩ := mem_enabledMoves hm <;> cases h
      obtain ⟨l, heffect⟩ := stepEffect_moveStep hne (drawn s)
      rw [h]
      exact ⟨{ s.env with draws := s.env.draws + 1, who := l }, hagenda, rfl, heffect⟩

/-- A step other than reset has one of the effects. -/
theorem stepEffect_of_step {s t : State} (hstep : step s = .next t) (hno : s.env.agenda.head? ≠ some .reset) :
    ∃ e : Env, e.agenda = s.env.agenda.tail ∧ e.epoch = s.env.epoch ∧ StepEffect { s with env := e } (.next t) := by
  rcases step_cases s with ⟨ms, hms, -⟩ | h
  · rw [hms] at hno
    exact absurd rfl hno
  · rwa [hstep] at h

/-! ## The claims about the step (R7, R100, R111, R175, R180, R190, R191) -/

/-- Settles O5. -/
theorem stepRunsTheDecodedOperation : Obligations.StepRunsTheDecodedOperation := by
  refine ⟨fun s s' b i hfetch hd => ?any, fun s ms w i hagenda hd => ?host,
    fun s ms l L code i hagenda hrun hL hnext hd => ?lane, fun s ms choice it i hagenda hready hit hd => ?dispatch⟩
  case any => rw [step_eq_perform, hfetch, perform_word hd]
  case host => rw [step_of_agenda hagenda, moveStep_host, perform_word hd]
  case lane =>
    rw [step_of_agenda hagenda]
    exact moveStep_lane_exec (s := popped s ms) hrun hL hnext hd
  case dispatch =>
    rw [step_of_agenda hagenda, moveStep_dispatch (s := popped s ms) hready hit, ← perform_descr, perform_word hd]

/-- With its guard a delivery reaches an idle enabled lane. -/
theorem deliver_of_ready {s : State} (hready : dispatchReady s = true) (d : Descriptor) :
    ∃ l L, pickedLane? s = some l ∧ l < s.sched.u.toNat ∧ s.lanes[l]? = some L ∧ L.st = .idle ∧
      deliver d s = .next { setLane s l { L with dreg := d, st := .load } with
        sched := { s.sched with next := s.sched.next + 1 } } := by
  obtain ⟨-, h⟩ | ⟨hno, -⟩ := deliver_cases d s
  · exact h
  · simp [hready] at hno

/-- Settles O7. -/
theorem illegalInnerWordsRaiseIllegal : Obligations.IllegalInnerWordsRaiseIllegal := by
  refine ⟨fun s ms l L code hagenda hcode hrun hL => ?code, fun s ms choice d hagenda hready => ?delivered,
    fun s L hact hst hd => ?ldesc⟩
  case code =>
    rw [step_of_agenda hagenda, moveStep_uop]
    exact perform_illegal_code (s := withWho (popped s ms) l) ⟨hrun, hL⟩ ((decode_uop_eq_none_iff code).2 hcode)
  case delivered =>
    obtain ⟨l, L, -, hl, hL, hidle, h⟩ := deliver_of_ready (s := withWho (popped s ms) choice) hready d
    refine ⟨l, L, hl, hL, hidle, ?_⟩
    rw [step_of_agenda hagenda, moveStep_descr, h]
    rfl
  case ldesc =>
    refine exec_ldesc_of_illegal hact hst ?_
    rw [decode_desc_eq_none_iff, ← or_assoc] at hd
    exact hd.imp_left kindOfField_eq_none

/-- The guard of DISPATCH, with the idle enabled lane (R175). -/
theorem dispatchReady_iff_exists (s : State) :
    dispatchReady s = true ↔ s.sched.sst = .run ∧ s.sched.next < s.sched.nitems ∧
      ∃ l L, l < s.sched.u.toNat ∧ s.lanes[l]? = some L ∧ L.st = .idle := by
  have hlane : idleLanes s ≠ [] ↔ ∃ l, l ∈ idleLanes s :=
    ⟨List.exists_mem_of_ne_nil _, fun ⟨_, hl⟩ => List.ne_nil_of_mem hl⟩
  rw [dispatchReady_iff, hlane]
  simp only [mem_idleLanes, exists_and_left]

/-- Settles O8: the fetch takes one of the enabled moves, which is the step with this move as the whole agenda. -/
theorem hardwareTakesOneOfItsEnabledSteps : Obligations.HardwareTakesOneOfItsEnabledSteps := by
  intro s hagenda
  rcases step_of_empty hagenda with ⟨hnil, hstep⟩ | ⟨m, hm, hstep⟩
  · refine .inl ⟨hstep, ?_⟩
    by_cases hrun : s.sched.sst = .run
    case neg => exact .inl hrun
    obtain ⟨hdispatch, hjoin, hidle⟩ := (enabledMoves_eq_nil hnil).resolve_left (not_not_intro hrun)
    rw [← Bool.not_eq_true, dispatchReady_iff_exists] at hdispatch
    rw [← Bool.not_eq_true, joinReady_iff] at hjoin
    exact .inr ⟨fun h => hdispatch ⟨hrun, h⟩, fun h => hjoin ⟨hrun, h⟩, hidle⟩
  · right
    refine ⟨m, ?_, ?_⟩
    · have hdrawn : popped { s with env := { s.env with agenda := [m], draws := s.env.draws + 1 } } [] = drawn s := by
        rw [popped, drawn, ← hagenda]
      rw [hstep, step_of_agenda (s := { s with env := { s.env with agenda := [m], draws := s.env.draws + 1 } }) rfl,
        hdrawn]
    · obtain ⟨hrun, hmove⟩ := mem_enabledMoves hm
      refine ⟨hrun, ?_⟩
      rcases hmove with ⟨hready, hchoice⟩ | ⟨hready, hjoin⟩ | ⟨l, hbusy, hlane⟩
      · obtain ⟨-, hnext, hidle⟩ := (dispatchReady_iff_exists s).1 hready
        exact .inl ⟨hnext, hidle, hchoice⟩
      · obtain ⟨-, hnext, hretired⟩ := (joinReady_iff s).1 hready
        exact .inr (.inl ⟨hnext, hretired, hjoin⟩)
      · obtain ⟨L, hL, hst⟩ := (laneBusy_iff s l).1 hbusy
        exact .inr (.inr ⟨l, L, hL, hst, hlane⟩)

/-- Settles O21: the picked lane, the choice that picks a given one, and the guard. -/
theorem dispatchHandsTheDescriptorToAnIdleLane : Obligations.DispatchHandsTheDescriptorToAnIdleLane := by
  intro s y x0 n
  refine ⟨fun hrun hnext hidle => ?delivered, fun hrun hnext l L hl hL hidle => ?anyLane, fun h => ?disabled⟩
  case delivered =>
    have hready := (dispatchReady_iff_exists s).2 ⟨hrun, hnext, hidle⟩
    obtain ⟨l, L, hpick, hl, hL, hst, hconv⟩ := deliver_of_ready hready (descWord 1 y x0 n)
    obtain ⟨l', L', hpick', -, hL', -, hpass⟩ := deliver_of_ready hready (descWord 2 y x0 n)
    obtain rfl : l = l' := Option.some.inj (hpick.symm.trans hpick')
    obtain rfl : L = L' := Option.some.inj (hL.symm.trans hL')
    exact ⟨l, L, hl, hL, hst, hconv, hpass⟩
  case anyLane =>
    have hmem : l ∈ idleLanes s := (mem_idleLanes s l).2 ⟨hl, L, hL, hidle⟩
    obtain ⟨choice, hlt, hchoice⟩ := List.mem_iff_getElem.1 hmem
    have hready := (dispatchReady_iff_exists (withWho s choice)).2 ⟨hrun, hnext, l, L, hl, hL, hidle⟩
    obtain ⟨l', L', hpick, -, hL', -, hconv⟩ := deliver_of_ready hready (descWord 1 y x0 n)
    have hpick' : pickedLane? (withWho s choice) = some l := by
      have hmod : choice % (idleLanes s).length = choice := Nat.mod_eq_of_lt hlt
      exact (congrArg ((idleLanes s)[·]?) hmod).trans ((List.getElem?_eq_getElem hlt).trans (congrArg some hchoice))
    obtain rfl : l = l' := Option.some.inj (hpick'.symm.trans hpick)
    obtain rfl : L = L' := Option.some.inj (hL.symm.trans hL')
    exact ⟨choice, hconv⟩
  case disabled =>
    have hready : dispatchReady s = false := by
      rw [← Bool.not_eq_true, dispatchReady_iff_exists]
      rintro ⟨hrun, hnext, l, L, hl, hL, hidle⟩
      rcases h with h | h | h
      · exact h hrun
      · exact absurd hnext (BitVec.not_lt.2 h)
      · exact h l L hl hL hidle
    have hnothing (d : Descriptor) : deliver d s = .next s := by
      obtain ⟨hyes, -⟩ | ⟨-, hd⟩ := deliver_cases d s
      · simp [hready] at hyes
      · exact hd
    exact ⟨hnothing _, hnothing _⟩

/-- Settles O22. -/
theorem joinEndsTheRun : Obligations.JoinEndsTheRun := by
  intro s ms hagenda
  rw [step_of_agenda hagenda, moveStep_join, ← joinReady_iff]
  exact ⟨fun hready => congrArg Host.Outcome.next (joinStep_eq_joined (s := popped s ms) hready),
    fun hready => congrArg Host.Outcome.next (joinStep_eq_self (s := popped s ms) hready)⟩

/-! ### The sequencer (R191) -/

section
variable {apol : Word} {L : Lane}

theorem nextUop_idle (hst : L.st = .idle) : nextUop apol L = .wait := by simp only [nextUop, hst]

theorem nextUop_load (hst : L.st = .load) : nextUop apol L = .issue 1 := by simp only [nextUop, hst]

section
variable (hst : L.st = .run)
include hst

theorem nextUop_done (hrem : L.rem = 0) : nextUop apol L = .issue 8 := by simp only [nextUop, hst, hrem, if_true]

variable (hrem : L.rem ≠ 0)
include hrem

theorem nextUop_pass (hkind : L.kind = .pass) : nextUop apol L = .issue 7 := by
  simp only [nextUop, hst, hrem, if_false, hkind]

theorem nextUop_no_kind (hkind : L.kind = .none) : nextUop apol L = .illegal := by
  simp only [nextUop, hst, hrem, if_false, hkind]

variable (hkind : L.kind = .conv)
include hkind

theorem nextUop_no_filter (hpol : apol ≠ 1 ∧ apol ≠ 2) : nextUop apol L = .illegal := by
  have hfilter : (!isFilter apol) = true := (not_isFilter_eq_decide apol).trans (decide_eq_true hpol)
  simp only [nextUop, hst, hrem, if_false, hkind, hfilter, if_true]

variable (hpol : apol = 1 ∨ apol = 2)
include hpol

/-- The window is not yet full or not centred on `X`. -/
theorem nextUop_shift (hwin : L.wv ≠ 3 ∨ L.col.toNat ≠ L.x.toNat + 2) : nextUop apol L = .issue 2 := by
  have hfilter := (isFilter_iff apol).2 hpol
  have hwin' : L.wv ≠ 3#2 ∨ colAtCentre L = false := by rwa [← Bool.not_eq_true, colAtCentre_iff]
  simp only [nextUop, hst, hrem, if_false, hkind, hfilter, Bool.not_true, Bool.false_eq_true, hwin', if_true]

variable (hwv : L.wv = 3) (hcol : L.col.toNat = L.x.toNat + 2)
include hwv hcol

/-- With the window centred AV decides. -/
theorem nextUop_centred :
    (L.av = .none → nextUop apol L = if apol = 1#32 then .issue 3 else .issue 4) ∧
      (L.av = .avg → nextUop apol L = .issue 5) ∧ (L.av = .sob → nextUop apol L = .issue 6) := by
  have hfilter := (isFilter_iff apol).2 hpol
  have hcentre := (colAtCentre_iff L).2 hcol
  have hwin : ¬(L.wv ≠ 3#2 ∨ colAtCentre L = false) := by simp [hwv, hcentre]
  simp only [nextUop, hst, hrem, if_false, hkind, hfilter, Bool.not_true, Bool.false_eq_true, hwin]
  exact ⟨fun hav => by rw [hav], fun hav => by rw [hav], fun hav => by rw [hav]⟩

end

end

/-- Settles O23: the two silent steps, then the rows of the table. -/
theorem sequencerSelectsTheNextOperation : Obligations.SequencerSelectsTheNextOperation := by
  refine ⟨fun s ms l L hagenda hrun hL => ?silent, fun apol L => ⟨nextUop_idle, nextUop_load, nextUop_done,
    nextUop_pass, nextUop_no_kind, fun hst hrem hkind h1 h2 => nextUop_no_filter hst hrem hkind ⟨h1, h2⟩,
    fun hst hrem hkind hpol => ⟨fun hwin => ?shift, fun hwv hcol => ?centred⟩⟩⟩
  case silent =>
    rw [step_of_agenda hagenda]
    exact ⟨moveStep_lane_wait (s := popped s ms) hrun hL, moveStep_lane_illegal (s := popped s ms) hrun hL⟩
  case shift =>
    refine nextUop_shift hst hrem hkind hpol (hwin.imp_left fun hlt h => ?_)
    rw [h] at hlt
    exact absurd hlt (by decide)
  case centred =>
    obtain ⟨hnone, havg, hsob⟩ := nextUop_centred hst hrem hkind hpol hwv hcol
    exact ⟨fun hav h1 => (hnone hav).trans (if_pos h1), fun hav h2 => (hnone hav).trans (if_neg (by rw [h2]; decide)),
      havg, hsob⟩

/-! ## FAULT, and what a run keeps (R45, R82, R87, R266, R268) -/

/-- In FAULT the host can write its registers and IMEM, and nothing else happens. -/
theorem stepEffect_in_fault {s t : State} (h : StepEffect s (.next t)) (hs : s.sched.sst = .fault) :
    t.sched = s.sched ∧ t.host.ecode = s.host.ecode ∧ t.lanes = s.lanes ∧ t.omem = s.omem ∧
      t.env.epoch = s.env.epoch := by
  have hrun : ¬s.sched.sst = .run := by simp [hs]
  have hidle : ¬s.sched.sst = .idle := by simp [hs]
  have hdeliver {d : Descriptor} (h : DeliverEffect d s (.next t)) : t = s := by
    cases h with
    | given hready => exact absurd ((dispatchReady_iff s).1 hready).1 hrun
    | nothing => rfl
  cases h with
  | exec h =>
    cases h with
    | host r v h =>
      cases h with
      | same => exact ⟨rfl, rfl, rfl, rfl, rfl⟩
      | registers hecode => exact ⟨rfl, hecode, rfl, rfl, rfl⟩
      | sample => exact ⟨rfl, rfl, rfl, rfl, rfl⟩
      | drawn => exact ⟨rfl, rfl, rfl, rfl, rfl⟩
      | fault code h => exact absurd h hidle
      | start h => exact absurd h hidle
    | dispatch hi h =>
      rw [hdeliver h]
      exact ⟨rfl, rfl, rfl, rfl, rfl⟩
    | lane hi hact => exact absurd hact.1 hrun
    | frozen => exact ⟨rfl, rfl, rfl, rfl, rfl⟩
  | refused => exact ⟨rfl, rfl, rfl, rfl, rfl⟩
  | deliver h =>
    rw [hdeliver h]
    exact ⟨rfl, rfl, rfl, rfl, rfl⟩
  | illegal h => exact absurd h hrun
  | join hready => exact absurd ((joinReady_iff s).1 hready).1 hrun
  | nothing => exact ⟨rfl, rfl, rfl, rfl, rfl⟩

/-- What a cell of OMEM reads as depends on the written cells, the number of resets and whether a fault was raised
during a run (R303, R267). -/
theorem omemRead_congr {s t : State} (hmid : midRunFault t = midRunFault s) (homem : t.omem = s.omem)
    (hepoch : t.env.epoch = s.env.epoch) (i : Nat) : omemRead t i = omemRead s i := by
  cases h : midRunFault s with
  | true => rw [omemRead_of_midRunFault s i h, omemRead_of_midRunFault t i (hmid.trans h), hepoch]
  | false => rw [omemRead_of_not_midRunFault s i h, omemRead_of_not_midRunFault t i (hmid.trans h), homem, hepoch]

/-- Settles O40: what a cell of OMEM reads as is a function of what FAULT keeps. -/
theorem faultIsLeftByResetOnly : Obligations.FaultIsLeftByResetOnly := by
  intro s t hs hstep hno
  obtain ⟨e, -, hepoch, h⟩ := stepEffect_of_step hstep hno
  obtain ⟨hsched, hecode, hlanes, homem, hepoch'⟩ := stepEffect_in_fault h hs
  have hmid : midRunFault t = midRunFault s := by rw [midRunFault, midRunFault, hsched, hecode]
  exact ⟨hsched, hecode, hlanes, homem, omemRead_congr hmid homem (hepoch'.trans hepoch)⟩

/-- What stays the same during a run: the parameters, IMEM, the number of resets, and the latched configuration (R45,
R82 (a), R87). -/
structure SameRun (s t : State) : Prop where
  cfg : t.cfg = s.cfg
  imem : t.imem = s.imem
  epoch : t.env.epoch = s.env.epoch
  aw : t.sched.aw = s.sched.aw
  ah : t.sched.ah = s.sched.ah
  apol : t.sched.apol = s.sched.apol
  apar : t.sched.apar = s.sched.apar
  achunk : t.sched.achunk = s.sched.achunk
  u : t.sched.u = s.sched.u
  nitems : t.sched.nitems = s.sched.nitems

theorem SameRun.refl (s : State) : SameRun s s := ⟨rfl, rfl, rfl, rfl, rfl, rfl, rfl, rfl, rfl, rfl⟩

theorem SameRun.trans {s t u : State} (h : SameRun s t) (h' : SameRun t u) : SameRun s u :=
  ⟨h'.cfg.trans h.cfg, h'.imem.trans h.imem, h'.epoch.trans h.epoch, h'.aw.trans h.aw, h'.ah.trans h.ah,
    h'.apol.trans h.apol, h'.apar.trans h.apar, h'.achunk.trans h.achunk, h'.u.trans h.u, h'.nitems.trans h.nitems⟩

/-- No effect during a run touches what stays the same. -/
theorem sameRun_of_stepEffect {s t : State} (h : StepEffect s (.next t)) (hs : s.sched.sst = .run) : SameRun s t := by
  have hidle : ¬s.sched.sst = .idle := by simp [hs]
  have hdeliver {d : Descriptor} (h : DeliverEffect d s (.next t)) : SameRun s t := by
    cases h <;> exact ⟨rfl, rfl, rfl, rfl, rfl, rfl, rfl, rfl, rfl, rfl⟩
  cases h with
  | exec h =>
    cases h with
    | host r v h =>
      cases h with
      | same => exact ⟨rfl, rfl, rfl, rfl, rfl, rfl, rfl, rfl, rfl, rfl⟩
      | registers => exact ⟨rfl, rfl, rfl, rfl, rfl, rfl, rfl, rfl, rfl, rfl⟩
      | sample hi h => exact absurd hs h
      | drawn => exact ⟨rfl, rfl, rfl, rfl, rfl, rfl, rfl, rfl, rfl, rfl⟩
      | fault code h => exact absurd h hidle
      | start h => exact absurd h hidle
    | dispatch hi h => exact hdeliver h
    | lane hi hact h => cases h <;> exact ⟨rfl, rfl, rfl, rfl, rfl, rfl, rfl, rfl, rfl, rfl⟩
    | frozen => exact .refl s
  | refused => exact ⟨rfl, rfl, rfl, rfl, rfl, rfl, rfl, rfl, rfl, rfl⟩
  | deliver h => exact hdeliver h
  | illegal => exact ⟨rfl, rfl, rfl, rfl, rfl, rfl, rfl, rfl, rfl, rfl⟩
  | join => exact ⟨rfl, rfl, rfl, rfl, rfl, rfl, rfl, rfl, rfl, rfl⟩
  | nothing => exact .refl s

theorem sameRun_of_step {s t : State} (hs : s.sched.sst = .run) (hstep : step s = .next t)
    (hno : s.env.agenda.head? ≠ some .reset) : SameRun s t := by
  obtain ⟨e, -, hepoch, h⟩ := stepEffect_of_step hstep hno
  have henv : SameRun s { s with env := e } := ⟨rfl, rfl, hepoch, rfl, rfl, rfl, rfl, rfl, rfl, rfl⟩
  exact henv.trans (sameRun_of_stepEffect h hs)

/-- Settles O46. -/
theorem runConfigurationIsConstant : Obligations.RunConfigurationIsConstant := by
  intro s t hs hstep hno
  have h := sameRun_of_step hs hstep hno
  exact ⟨h.imem, h.epoch, h.aw, h.ah, h.apol, h.apar, h.achunk, h.u, h.nitems⟩

/-! ## Reset (R63, R290) -/

/-- Settles O42. -/
theorem resetLeavesTheResetValues : Obligations.ResetLeavesTheResetValues := by
  intro s ms hagenda
  refine ⟨applyReset (popped s ms), by rw [step_of_agenda hagenda, moveStep_reset], rfl, rfl, rfl, rfl, rfl, rfl,
    rfl, List.length_replicate, fun L hL => ?_⟩
  rw [List.eq_of_mem_replicate hL]
  exact ⟨rfl, rfl, rfl, rfl, rfl⟩

end Sys2Proof.Proofs
end

section
/-! The invariant of every machine (10_state.md R64 (a) to (d)): reset establishes it, every step keeps it, and from it
the model's own fault is not reached. -/

open Sys2Proof Sys2Proof.Machine

namespace Sys2Proof.Proofs

/-! ## Counting the busy lanes -/

/-- One entry of a list is replaced: the sum changes by what the entry contributes. -/
theorem sum_map_set_add {α : Type} (f : α → Nat) {a : α} (b : α) :
    ∀ {l : List α} {i : Nat}, l[i]? = some a → ((l.set i b).map f).sum + f a = (l.map f).sum + f b
  | [], _, h => by simp at h
  | c :: l, 0, h => by
    obtain rfl : c = a := by simpa using h
    simp only [List.set_cons_zero, List.map_cons, List.sum_cons]
    omega
  | c :: l, i + 1, h => by
    have ih := sum_map_set_add f b (l := l) (i := i) (by simpa using h)
    simp only [List.set_cons_succ, List.map_cons, List.sum_cons]
    omega

/-- What a lane record contributes to `busyCount`. -/
def busyBit (L : Lane) : Nat := if L.st = .idle then 0 else 1

@[simp] theorem busyBit_of_idle {L : Lane} (h : L.st = .idle) : busyBit L = 0 := if_pos h

@[simp] theorem busyBit_of_busy {L : Lane} (h : L.st ≠ .idle) : busyBit L = 1 := if_neg h

theorem busyCount_eq_sum (s : State) : busyCount s = (s.lanes.map busyBit).sum := by
  unfold busyCount
  induction s.lanes with
  | nil => rfl
  | cons L lanes ih =>
    rw [List.countP_cons, ih, List.map_cons, List.sum_cons, Nat.add_comm]
    by_cases h : L.st = .idle <;> simp [h, busyBit]

/-- No lane is counted exactly when every lane is idle. -/
theorem busyCount_eq_zero_iff (s : State) : busyCount s = 0 ↔ ∀ L ∈ s.lanes, L.st = .idle := by
  simp only [busyCount, List.countP_eq_zero, decide_eq_true_eq, not_not]

/-- A lane's record is replaced: the count changes by what the record contributes. -/
theorem busyCount_add_busyBit {s t : State} {l : Nat} {L L' : Lane} (hL : s.lanes[l]? = some L)
    (hlanes : t.lanes = s.lanes.set l L') : busyCount t + busyBit L = busyCount s + busyBit L' := by
  rw [busyCount_eq_sum, busyCount_eq_sum, hlanes]
  exact sum_map_set_add busyBit L' hL

/-! ## The model's own fields play no part -/

theorem runShape_with_env {s : State} (h : RunShape s) (e : Env) : RunShape { s with env := e } :=
  ⟨h.shape, h.fits, h.length, h.team, h.cursors, h.inFlight, h.enabled⟩

theorem machineInv_with_env {s : State} (h : MachineInv s) (e : Env) : MachineInv { s with env := e } where
  params := h.params
  laneCount := h.laneCount
  imemForm := h.imemForm
  imemSize := h.imemSize
  omemForm := h.omemForm
  omemSize := h.omemSize
  faultCode := h.faultCode
  faultRange := h.faultRange
  doneAfterRun := h.doneAfterRun
  restingLane := h.restingLane
  restingMachine := h.restingMachine
  running := fun hs => runShape_with_env (h.running hs) e

/-! ## Reset -/

/-- Reset establishes the invariant (R63). -/
theorem machineInv_resetWith {cfg : Config} (hwf : cfg.wf) (env : Env) : MachineInv (State.resetWith cfg env) where
  params := hwf
  laneCount := List.length_replicate
  imemForm := (resetWith_memories_wf cfg env).1
  imemSize := fun _ hc => absurd hc List.not_mem_nil
  omemForm := (resetWith_memories_wf cfg env).2
  omemSize := fun _ hc => absurd hc List.not_mem_nil
  faultCode := iff_of_false (fun h => h rfl) (by rintro ⟨⟩)
  faultRange := Nat.zero_le _
  doneAfterRun := by rintro ⟨⟩
  restingLane := fun L hL _ => List.eq_of_mem_replicate hL ▸ ⟨rfl, rfl, rfl, rfl⟩
  restingMachine := fun _ L hL => List.eq_of_mem_replicate hL ▸ rfl
  running := by rintro ⟨⟩

/-- With an agenda of moves by the spec, reset establishes the invariant of a run too. -/
theorem runInv_resetWith {cfg : Config} (hwf : cfg.wf) {env : Env} (hspec : ∀ m ∈ env.agenda, moveBySpec m = true) :
    RunInv (State.resetWith cfg env) where
  machine := machineInv_resetWith hwf env
  bySpec := hspec
  convLanes := fun L hL hst => by
    rw [List.eq_of_mem_replicate hL] at hst
    cases hst
  tracks := by rintro ⟨⟩
  accounted := by rintro ⟨⟩

/-- Settles O47. -/
theorem invariantsHoldAfterReset : Obligations.InvariantsHoldAfterReset :=
  ⟨fun _ env hwf => machineInv_resetWith hwf env,
    runInv_resetWith (by decide) fun _ hm => absurd hm List.not_mem_nil⟩

/-! ## Host operations -/

section
variable {s : State} (h : MachineInv s)
include h

/-- Host registers that keep the fault code and do not set DONE. -/
theorem machineInv_with_host {host : HostRegs} (hecode : host.ecode = s.host.ecode)
    (hdone : host.done = true → s.host.done = true) : MachineInv { s with host := host } where
  params := h.params
  laneCount := h.laneCount
  imemForm := h.imemForm
  imemSize := h.imemSize
  omemForm := h.omemForm
  omemSize := h.omemSize
  faultCode := by simpa only [hecode] using h.faultCode
  faultRange := by simpa only [hecode] using h.faultRange
  doneAfterRun := fun hd => h.doneAfterRun (hdone hd)
  restingLane := h.restingLane
  restingMachine := h.restingMachine
  running := fun hs =>
    let hr := h.running hs
    ⟨hr.shape, hr.fits, hr.length, hr.team, hr.cursors, hr.inFlight, hr.enabled⟩

theorem machineInv_imemWrite (hs : s.sched.sst ≠ .run) {i : Nat} (hi : i < 3 * s.cfg.memPixels) (v : Sample) :
    MachineInv (imemWrite s i v) where
  params := h.params
  laneCount := h.laneCount
  imemForm := imemWrite_wf s i v h.imemForm
  imemSize := memPut_within _ _ _ _ h.imemSize hi
  omemForm := h.omemForm
  omemSize := h.omemSize
  faultCode := h.faultCode
  faultRange := h.faultRange
  doneAfterRun := h.doneAfterRun
  restingLane := h.restingLane
  restingMachine := h.restingMachine
  running := fun hrun => absurd hrun hs

/-- Fault entry (R266). -/
theorem machineInv_faulted (code : FaultCode) : MachineInv (faulted s (faultNumber code)) where
  params := h.params
  laneCount := h.laneCount
  imemForm := h.imemForm
  imemSize := h.imemSize
  omemForm := h.omemForm
  omemSize := h.omemSize
  faultCode := iff_of_true (faultNumber_ne_zero code) rfl
  faultRange := faultNumber_le_four code
  doneAfterRun := by rintro - ⟨⟩
  restingLane := h.restingLane
  restingMachine := by rintro ⟨⟩
  running := by rintro ⟨⟩

/-- What START has checked: the latched shape, the item list and the team of a run that begins (R160, R172, R173). -/
theorem runShape_startRun (hidle : s.sched.sst = .idle) (hfit : startFault? s = none) : RunShape (startRun s) := by
  obtain ⟨hw, hh, hfits⟩ := startFault_eq_none_iff.1 hfit
  obtain ⟨hlanes, hlanes', -, hmem⟩ := h.params
  have hw' : 1 ≤ s.host.width.toNat := by bv_omega
  have hh' : 1 ≤ s.host.height.toNat := by bv_omega
  have hresting := h.restingMachine hidle
  have hunits := units_bounds s.host.lanesLimit.toNat (Config.unitsDraw s.env.draws) hlanes s.host.par s.host.dyn
  have hteam : (startRun s).sched.u.toNat =
      units s.host.par s.host.dyn s.cfg.nlanes s.host.lanesLimit.toNat (Config.unitsDraw s.env.draws) := by
    rw [startRun, BitVec.toNat_ofNat, Nat.mod_eq_of_lt (by omega)]
  refine ⟨⟨hw, hh⟩, hfits, ?_, hteam ▸ hunits, ⟨BitVec.le_refl _, Nat.zero_le _⟩, ?_, fun l hbusy => ?_⟩
  · have hitems := nitems_bounds (apol := s.host.policy) s.host.chunk.toNat hw' hh'
    rw [runItems, startRun, BitVec.toNat_ofNat, Nat.mod_eq_of_lt (by omega)]
    exact (length_items_eq_nitems s.host.chunk.toNat hw').symm
  · have hzero : busyCount (startRun s) = 0 := (busyCount_eq_zero_iff _).2 hresting
    rw [hzero]
    rfl
  · obtain ⟨L, hL, hst⟩ := (laneBusy_iff _ l).1 hbusy
    exact absurd (hresting L (List.mem_of_getElem? hL)) hst

theorem machineInv_startRun (hidle : s.sched.sst = .idle) (hfit : startFault? s = none) : MachineInv (startRun s) where
  params := h.params
  laneCount := h.laneCount
  imemForm := h.imemForm
  imemSize := h.imemSize
  omemForm := h.omemForm
  omemSize := h.omemSize
  faultCode := by
    refine iff_of_false (fun hcode => ?_) (by rintro ⟨⟩)
    have hfault := h.faultCode.1 hcode
    rw [hidle] at hfault
    cases hfault
  faultRange := h.faultRange
  doneAfterRun := by rintro ⟨⟩
  restingLane := h.restingLane
  restingMachine := by rintro ⟨⟩
  running := fun _ => runShape_startRun h hidle hfit

theorem machineInv_hostEffect {i : Instr} {x : State} (heffect : HostEffect i s x) : MachineInv x := by
  cases heffect with
  | same => exact h
  | registers hecode hdone hconfig => exact machineInv_with_host h hecode hdone
  | sample hi hs ha => exact machineInv_imemWrite h hs ha _
  | drawn => exact machineInv_with_env h _
  | fault code hs => exact machineInv_faulted h code
  | start hs hfit => exact machineInv_startRun h hs hfit

end

/-! ## Steps of a run that change one lane -/

theorem toNat_add_one_of_lt {a b : Word} (h : a < b) : (a + 1).toNat = a.toNat + 1 := by bv_omega

/-- The shape of a run after one lane's record has been replaced and the cursors have been moved to match. -/
theorem runShape_of_lane_change {s t : State} (h : RunShape s) (hsame : SameRun s t) {l : Nat} {L L' : Lane}
    (hL : s.lanes[l]? = some L) (hlanes : t.lanes = s.lanes.set l L') (henabled : l < s.sched.u.toNat)
    (hcursors : t.sched.retired ≤ t.sched.next ∧ t.sched.next ≤ t.sched.nitems)
    (hbalance : s.sched.next.toNat + busyBit L' + t.sched.retired.toNat =
      t.sched.next.toNat + busyBit L + s.sched.retired.toNat) : RunShape t where
  shape := by rw [hsame.aw, hsame.ah]; exact h.shape
  fits := by rw [hsame.aw, hsame.ah, hsame.cfg]; exact h.fits
  length := by
    rw [runItems, hsame.aw, hsame.ah, hsame.apol, hsame.achunk, hsame.nitems]
    exact h.length
  team := by rw [hsame.u, hsame.cfg]; exact h.team
  cursors := hcursors
  inFlight := by
    have hcount := busyCount_add_busyBit hL hlanes
    have hflight := h.inFlight
    omega
  enabled := by
    intro l' hbusy
    obtain ⟨M, hM, hst⟩ := (laneBusy_iff t l').1 hbusy
    rw [hsame.u]
    by_cases heq : l' = l
    · exact heq ▸ henabled
    · rw [hlanes, List.getElem?_set_ne (Ne.symm heq)] at hM
      exact h.enabled l' ((laneBusy_iff s l').2 ⟨M, hM, hst⟩)

/-- The machine's invariant after a step of a run that replaces one lane's record. -/
theorem machineInv_of_lane_change {s t : State} (h : MachineInv s) (hrun : s.sched.sst = .run) (hsame : SameRun s t)
    (hhost : t.host = s.host) (hsst : t.sched.sst = .run) {l : Nat} {L' : Lane}
    (hlanes : t.lanes = s.lanes.set l L')
    (hresting : L'.st ≠ .run → L'.kind = .none ∧ L'.wv = 0 ∧ L'.av = .none ∧ L'.rem = 0)
    (hform : Memory.wf t.omem = true) (hsize : Memory.within t.omem (cellCount s.cfg)) (hshape : RunShape t) :
    MachineInv t where
  params := by rw [hsame.cfg]; exact h.params
  laneCount := by rw [hlanes, List.length_set, hsame.cfg]; exact h.laneCount
  imemForm := by rw [hsame.imem]; exact h.imemForm
  imemSize := by rw [hsame.imem, hsame.cfg]; exact h.imemSize
  omemForm := hform
  omemSize := by rw [hsame.cfg]; exact hsize
  faultCode := by rw [hhost, hsst, ← hrun]; exact h.faultCode
  faultRange := by rw [hhost]; exact h.faultRange
  doneAfterRun := fun hd => absurd hrun (h.doneAfterRun (hhost ▸ hd))
  restingLane := by
    intro M hM
    rw [hlanes] at hM
    rcases List.mem_or_eq_of_mem_set hM with hM | rfl
    · exact h.restingLane M hM
    · exact hresting
  restingMachine := by rw [hsst]; rintro ⟨⟩
  running := fun _ => hshape

section
variable {s t : State} (h : MachineInv s)
include h

/-- DISPATCH: one more item on its way, one more busy lane (R175). -/
theorem machineInv_deliverEffect {d : Descriptor} (heffect : DeliverEffect d s (.next t)) : MachineInv t := by
  cases heffect with
  | nothing => exact h
  | given hready hl hL hidle =>
    obtain ⟨hrun, hnext, -⟩ := (dispatchReady_iff s).1 hready
    have hshape := h.running hrun
    have hsame : SameRun s _ :=
      sameRun_of_stepEffect (.deliver (.given (w := d) hready hl hL hidle)) hrun
    obtain ⟨hkind, hwv, hav, hrem⟩ := h.restingLane _ (List.mem_of_getElem? hL) (by simp [hidle])
    have hnext' := toNat_add_one_of_lt hnext
    refine machineInv_of_lane_change h hrun hsame rfl hrun rfl (fun _ => ⟨hkind, hwv, hav, hrem⟩) h.omemForm
      h.omemSize (runShape_of_lane_change hshape hsame hL rfl hl ?_ ?_)
    · have hle := hshape.cursors.1
      exact ⟨by rw [BitVec.le_def] at hle ⊢; simp only; omega,
        by rw [BitVec.le_def]; rw [BitVec.lt_def] at hnext; simp only; omega⟩
    · rw [busyBit_of_idle hidle, busyBit_of_busy LaneState.noConfusion]
      simp only
      omega

/-- A micro-operation: the count of busy lanes changes with RETIRE only, and with it RETIRED (R199). -/
theorem machineInv_laneEffect {i : Instr} (hi : i ∈ microOps) {L : Lane} (hact : actingLane s L)
    (heffect : LaneEffect i s L (.next t)) : MachineInv t := by
  obtain ⟨hrun, hL⟩ := hact
  have hshape := h.running hrun
  have henabled (hbusy : L.st ≠ .idle) : s.env.who < s.sched.u.toNat :=
    hshape.enabled _ ((laneBusy_iff s _).2 ⟨L, hL, hbusy⟩)
  have hsame : SameRun s t := sameRun_of_stepEffect (.exec (.lane hi ⟨hrun, hL⟩ heffect)) hrun
  cases heffect with
  | fault code => exact machineInv_faulted h code
  | update hbusy hst hkeeps =>
    refine machineInv_of_lane_change h hrun hsame rfl hrun rfl (absurd hst) h.omemForm h.omemSize
      (runShape_of_lane_change hshape hsame hL rfl (henabled hbusy) hshape.cursors ?_)
    rw [busyBit_of_busy hbusy, busyBit_of_busy (by simp [hst])]
    rfl
  | write v hwrites hbusy hst hkeeps hcell =>
    refine machineInv_of_lane_change h hrun hsame rfl hrun rfl (absurd hst)
      (omemWritePixel_wf s _ v h.omemForm) ?_
      (runShape_of_lane_change hshape hsame hL rfl (henabled hbusy) hshape.cursors ?_)
    · simp only [withLane_omem, omemWritePixel_omem, cellCount]
      exact memPut_within _ _ _ _
        (memPut_within _ _ _ _ (memPut_within _ _ _ _ h.omemSize (by omega)) (by omega)) (by omega)
    · rw [busyBit_of_busy hbusy, busyBit_of_busy (by simp [hst])]
      rfl
  | retire hst hrem =>
    have hbusy : L.st ≠ .idle := by simp [hst]
    have hbit : busyBit L = 1 := busyBit_of_busy hbusy
    have hpos : busyCount s ≠ 0 := fun hzero =>
      hbusy ((busyCount_eq_zero_iff s).1 hzero L (List.mem_of_getElem? hL))
    have hflight := hshape.inFlight
    obtain ⟨-, hle⟩ := hshape.cursors
    have hlt : s.sched.retired < s.sched.next := by
      rw [BitVec.lt_def]
      omega
    have hretired := toNat_add_one_of_lt hlt
    refine machineInv_of_lane_change h hrun hsame rfl hrun rfl (fun _ => ⟨rfl, rfl, rfl, hrem⟩) h.omemForm
      h.omemSize (runShape_of_lane_change hshape hsame hL rfl (henabled hbusy) ⟨?_, hle⟩ ?_)
    · rw [BitVec.le_def]
      rw [BitVec.lt_def] at hlt
      simp only
      omega
    · rw [hbit, busyBit_of_idle rfl]
      simp only
      omega

/-- When all items are retired no lane is busy (R64 (b)). -/
theorem lanes_idle_of_joinReady (hready : joinReady s = true) : ∀ L ∈ s.lanes, L.st = .idle := by
  obtain ⟨hrun, hnext, hretired⟩ := (joinReady_iff s).1 hready
  have hflight := (h.running hrun).inFlight
  rw [hnext, hretired] at hflight
  exact (busyCount_eq_zero_iff s).1 (by omega)

theorem machineInv_joined (hready : joinReady s = true) : MachineInv (joined s) where
  params := h.params
  laneCount := h.laneCount
  imemForm := h.imemForm
  imemSize := h.imemSize
  omemForm := h.omemForm
  omemSize := h.omemSize
  faultCode := by
    obtain ⟨hrun, -⟩ := (joinReady_iff s).1 hready
    refine iff_of_false (fun hcode => ?_) (by rintro ⟨⟩)
    have hfault := h.faultCode.1 hcode
    rw [hrun] at hfault
    cases hfault
  faultRange := h.faultRange
  doneAfterRun := by rintro - ⟨⟩
  restingLane := h.restingLane
  restingMachine := fun _ => lanes_idle_of_joinReady (s := s) h hready
  running := by rintro ⟨⟩

theorem machineInv_stepEffect (heffect : StepEffect s (.next t)) : MachineInv t := by
  cases heffect with
  | exec heffect =>
    cases heffect with
    | host r v hx => exact machineInv_with_env (machineInv_hostEffect h hx) _
    | dispatch hi hd => exact machineInv_deliverEffect h hd
    | lane hi hact hl => exact machineInv_laneEffect h hi hact hl
    | frozen => exact h
  | refused => exact machineInv_with_env h _
  | deliver hd => exact machineInv_deliverEffect h hd
  | illegal hrun => exact machineInv_faulted h .illegal
  | join hready => exact machineInv_joined h hready
  | nothing => exact h

end

/-- Settles O48: the effects of a step, one by one, after the fetch has changed only the model's own fields. -/
theorem everyStepKeepsTheMachineInvariant : Obligations.EveryStepKeepsTheMachineInvariant := by
  intro s t h hstep
  rcases step_cases s with ⟨ms, -, hreset⟩ | ⟨e, -, -, heffect⟩
  · cases hreset.symm.trans hstep
    exact machineInv_resetWith h.params _
  · rw [hstep] at heffect
    exact machineInv_stepEffect (machineInv_with_env h e) heffect

/-- Only a lane access past the memories could stop the machine, and during a run the image fits them (R73). -/
theorem next_of_stepEffect {s : State} (h : MachineInv s) {r : Result} (heffect : StepEffect s r) :
    ∃ t, r = .next t := by
  have hdeliver {d : Descriptor} (hd : DeliverEffect d s r) : ∃ t, r = .next t := by cases hd <;> exact ⟨_, rfl⟩
  cases heffect with
  | exec heffect =>
    cases heffect with
    | host r v hx => exact ⟨_, rfl⟩
    | dispatch hi hd => exact hdeliver hd
    | lane hi hact hl =>
      cases hl with
      | fault code => exact ⟨_, rfl⟩
      | update => exact ⟨_, rfl⟩
      | write => exact ⟨_, rfl⟩
      | retire => exact ⟨_, rfl⟩
      | noSuchCell hbig => exact absurd (h.running hact.1).fits hbig
    | frozen => exact ⟨_, rfl⟩
  | refused => exact ⟨_, rfl⟩
  | deliver hd => exact hdeliver hd
  | illegal => exact ⟨_, rfl⟩
  | join => exact ⟨_, rfl⟩
  | nothing => exact ⟨_, rfl⟩

/-- Settles O49. -/
theorem theMachineNeverStops : Obligations.TheMachineNeverStops := by
  intro s h
  rcases step_cases s with ⟨ms, -, hreset⟩ | ⟨e, -, -, heffect⟩
  · exact ⟨_, hreset⟩
  · exact next_of_stepEffect (machineInv_with_env h e) heffect

end Sys2Proof.Proofs
end

section
/-! A lane of a run that tracks its item (43_window_shifter.md R191 to R199, 44_accumulator.md, 45_output_pipeline.md,
46_passthrough.md): the operation its sequencer selects raises no fault, brings the item one step further, and writes
no pixel but with its reference value. -/

open Sys2Proof Sys2Proof.Machine

namespace Sys2Proof.Proofs

/-! ## Coordinates do not wrap inside the image -/

theorem toNat_succ_of_lt {a b : Coord} (h : a.toNat < b.toNat) : (a + 1).toNat = a.toNat + 1 := by bv_omega

theorem toNat_pred_of_ne_zero {a : Coord} (h : a ≠ 0) : (a - 1).toNat = a.toNat - 1 := by bv_omega

theorem toNat_pos_of_ne_zero {a : Coord} (h : a ≠ 0) : 1 ≤ a.toNat := by bv_omega

/-! ## The reference result of a pixel, policy by policy (R136) -/

theorem refApply_of_not_filtered {m : MagRound} {w h : Nat} {policy : Word} {I : Nat → Nat → Fin 3 → Nat} {x y : Nat}
    (hno : ¬(isFilter policy = true ∧ interior w h x y = true)) (c : Fin 3) :
    refApply m w h policy I x y c = I x y c := by
  cases hi : interior w h x y with
  | false => exact refApply_of_not_interior m I c policy hi
  | true =>
    rw [hi, eq_self_iff_true, and_true, isFilter_iff, not_or] at hno
    rw [refApply, if_neg fun h => hno.1 h.1, if_neg fun h => hno.2 h.1]

theorem imageAt_le (s : State) (w x y : Nat) (c : Fin 3) : imageAt s w x y c ≤ 255 :=
  Nat.le_of_lt_succ (imemRead s _).isLt

/-- The sum of nine samples fits 12 bits (R214). -/
theorem refSum_imageAt_le (s : State) (w x y : Nat) (c : Fin 3) : refSum (imageAt s w) x y c ≤ 2295 := by
  have h := fun x y => imageAt_le s w x y c
  simp only [refSum]
  linarith [h (x - 1) (y - 1), h x (y - 1), h (x + 1) (y - 1), h (x - 1) y, h x y, h (x + 1) y, h (x - 1) (y + 1),
    h x (y + 1), h (x + 1) (y + 1)]

/-- A centred window holds the nine samples around `(x, y)` (R196). -/
def WindowCentred (I : Nat → Nat → Fin 3 → Nat) (x y : Nat) (win : Window) : Prop :=
  ∀ r j c : Fin 3, (win.at r j c).toNat = I (x + j.val - 1) (y + r.val - 1) c

section
variable {I : Nat → Nat → Fin 3 → Nat} {x y : Nat} {win : Window} (hwin : WindowCentred I x y win)
include hwin

theorem boxSum_of_windowCentred (c : Fin 3) : boxSum win c = refSum I x y c := by
  simp [boxSum, refSum, hwin _ _ c]
  omega

theorem kernelSum_kx_of_windowCentred (c : Fin 3) : kernelSum kx win c = refGx I x y c := by
  simp [kernelSum, kx, refGx, hwin _ _ c]
  ring

theorem kernelSum_ky_of_windowCentred (c : Fin 3) : kernelSum ky win c = refGy I x y c := by
  simp [kernelSum, ky, refGy, hwin _ _ c]
  ring

end

theorem toNat_ofNat_min (m : Nat) : (BitVec.ofNat 8 (min 255 m)).toNat = min 255 m := toNat_clamp8 m

/-! ## The steps an item still takes (R182) -/

section
variable {L : Lane}

theorem laneStepsLeft_idle (hst : L.st = .idle) : laneStepsLeft L = 0 := by simp only [laneStepsLeft, hst]

theorem laneStepsLeft_load (hst : L.st = .load) :
    laneStepsLeft L = itemSteps (decide (descKind L.dreg = 1)) (descN L.dreg).toNat := by
  simp only [laneStepsLeft, hst]

section
variable (hst : L.st = .run)
include hst

theorem laneStepsLeft_pass (hkind : L.kind = .pass) : laneStepsLeft L = L.rem.toNat + 1 := by
  simp only [laneStepsLeft, hst, hkind]

/-- RETIRE is the last step of every item. -/
theorem laneStepsLeft_done (hrem : L.rem = 0) : laneStepsLeft L = 1 := by
  cases hkind : L.kind <;> simp [laneStepsLeft, hst, hkind, hrem]

variable (hkind : L.kind = .conv) (hrem : L.rem ≠ 0)
include hkind hrem

theorem laneStepsLeft_priming (hwv : L.wv ≠ 3) : laneStepsLeft L = (3 - L.wv.toNat) + 3 * L.rem.toNat := by
  simp only [laneStepsLeft, hst, hkind, hrem, if_false, hwv, ne_eq, not_false_eq_true, if_true]

variable (hwv : L.wv = 3)
include hwv

theorem laneStepsLeft_behind (hcol : L.col.toNat ≠ L.x.toNat + 2) : laneStepsLeft L = 3 * L.rem.toNat + 1 := by
  have hcentre : colAtCentre L = false := by rwa [← Bool.not_eq_true, colAtCentre_iff]
  simp only [laneStepsLeft, hst, hkind, hrem, if_false, hwv, ne_eq, not_true_eq_false, hcentre, if_true]

variable (hcol : L.col.toNat = L.x.toNat + 2)
include hcol

theorem laneStepsLeft_centred (hav : L.av = .none) : laneStepsLeft L = 3 * L.rem.toNat := by
  have hcentre := (colAtCentre_iff L).2 hcol
  simp only [laneStepsLeft, hst, hkind, hrem, if_false, hwv, ne_eq, not_true_eq_false, hcentre, Bool.true_eq_false, hav, if_true]

theorem laneStepsLeft_summed (hav : L.av ≠ .none) : laneStepsLeft L = 3 * L.rem.toNat - 1 := by
  have hcentre := (colAtCentre_iff L).2 hcol
  simp only [laneStepsLeft, hst, hkind, hrem, if_false, hwv, ne_eq, not_true_eq_false, hcentre, Bool.true_eq_false, hav]

end

end

/-! ## What a lane's step comes to -/

/-- IMEM is not written during a run (R82): the image is the same. -/
theorem imageAt_congr {s t : State} (hsame : SameRun s t) : imageAt t = imageAt s := by
  funext w x y c
  rw [imageAt, imageAt, imemRead, imemRead, hsame.imem, hsame.epoch]

/-- The pixel is done in one state and stays so: OMEM reads the same there. -/
theorem pixelDone_congr {s t : State} (hsame : SameRun s t) {x y : Nat}
    (homem : ∀ c : Fin 3, omemRead t (3 * (y * s.sched.aw.toNat + x) + c.val) =
      omemRead s (3 * (y * s.sched.aw.toNat + x) + c.val)) (hdone : pixelDone s x y) : pixelDone t x y := by
  intro c
  rw [imageAt_congr hsame, hsame.cfg, hsame.aw, hsame.ah, hsame.apol, homem]
  exact hdone c

/-- What one step of a busy lane does in a run of hardware that follows the spec: from record `L` to record `L'` and
from state `s` to state `t`, the item comes one step further, done pixels stay done, and a pixel the lane no longer
owes is done. -/
structure LaneWork (s : State) (L : Lane) (t : State) (L' : Lane) : Prop where
  lanes : t.lanes = s.lanes.set s.env.who L'
  sst : t.sched.sst = s.sched.sst
  next : t.sched.next = s.sched.next
  host : t.host = s.host
  agenda : t.env.agenda = s.env.agenda
  tracks : LaneTracks s L'
  steps : laneStepsLeft L' + 1 = laneStepsLeft L
  kept : ∀ x y, x < s.sched.aw.toNat → y < s.sched.ah.toNat → pixelDone s x y → pixelDone t x y
  owed : ∀ x y, laneOwes L x y → laneOwes L' x y ∨ pixelDone t x y
  outside : ∀ i, 3 * (s.sched.aw.toNat * s.sched.ah.toNat) ≤ i → omemRead t i = omemRead s i

theorem laneTracks_of_idle {s : State} {L : Lane} (hst : L.st = .idle) : LaneTracks s L := by
  constructor <;> intro h <;> simp [hst] at h

theorem laneTracks_of_conv {s : State} {L : Lane} (hst : L.st = .run) (hkind : L.kind = .conv)
    (h : ConvProgress s L) : LaneTracks s L where
  load := by simp [hst]
  loadPass := by simp [hst]
  kind := by simp [hkind]
  pass := by simp [hkind]
  conv := fun _ _ => h

theorem laneTracks_of_pass {s : State} {L : Lane} (hst : L.st = .run) (hkind : L.kind = .pass)
    (h : PassProgress s L) : LaneTracks s L where
  load := by simp [hst]
  loadPass := by simp [hst]
  kind := by simp [hkind]
  pass := fun _ _ => h
  conv := by simp [hkind]

section
variable {s : State} {L L' : Lane}

/-- A step that touches the lane's own registers only. -/
theorem laneWork_withLane (htracks : LaneTracks s L') (hsteps : laneStepsLeft L' + 1 = laneStepsLeft L)
    (howed : ∀ x y, laneOwes L x y → laneOwes L' x y) : LaneWork s L (withLane s L') L' where
  lanes := rfl
  sst := rfl
  next := rfl
  host := rfl
  agenda := rfl
  tracks := htracks
  steps := hsteps
  kept := fun _ _ _ _ hdone => hdone
  owed := fun x y ho => .inl (howed x y ho)
  outside := fun _ _ => rfl

/-- Two pixels of the image with the same number are the same pixel (R72). -/
theorem pixel_eq_of_number_eq {aw x y x' y' : Nat} (hx : x < aw) (hx' : x' < aw)
    (h : y' * aw + x' = y * aw + x) : x' = x ∧ y' = y := by
  have hmod := congrArg (· % aw) h
  have hdiv := congrArg (· / aw) h
  have haw : 0 < aw := by omega
  simp only [Nat.mul_add_mod', Nat.mod_eq_of_lt hx, Nat.mod_eq_of_lt hx'] at hmod
  simp only [Nat.mul_comm _ aw, Nat.mul_add_div haw, Nat.div_eq_of_lt hx, Nat.div_eq_of_lt hx', Nat.add_zero] at hdiv
  exact ⟨hmod, hdiv⟩

/-- A step that writes pixel `(X, Y)` with its reference value and advances to the next one. -/
theorem laneWork_write (hrun : s.sched.sst = .run) {v : Tri Sample} (hst : L.st = .run) (hst' : L'.st = .run)
    (hx : L.x.toNat < s.sched.aw.toNat) (hy : L.y.toNat < s.sched.ah.toNat) (hrem : L.rem ≠ 0)
    (hadvance : L'.y = L.y ∧ L'.x = L.x + 1 ∧ L'.rem = L.rem - 1)
    (hvalue : ∀ c, (v.get c).toNat = refApply s.cfg.magRound s.sched.aw.toNat s.sched.ah.toNat s.sched.apol
      (imageAt s s.sched.aw.toNat) L.x.toNat L.y.toNat c)
    (htracks : LaneTracks s L') (hsteps : laneStepsLeft L' + 1 = laneStepsLeft L) :
    LaneWork s L (withLane (omemWritePixel s (lanePixel s L) v) L') L' := by
  have hmid : midRunFault s = false := midRunFault_of_ne_fault s (by simp [hrun])
  have hdone : pixelDone (withLane (omemWritePixel s (lanePixel s L) v) L') L.x.toNat L.y.toNat := fun c =>
    (congrArg BitVec.toNat (omemRead_omemWritePixel_channel s (lanePixel s L) v c hmid)).trans (hvalue c)
  have hother {i : Nat} (hi : ¬(3 * lanePixel s L ≤ i ∧ i < 3 * lanePixel s L + 3)) :
      omemRead (withLane (omemWritePixel s (lanePixel s L) v) L') i = omemRead s i :=
    omemRead_omemWritePixel_other s (lanePixel s L) v i hi
  have hsame : SameRun s (withLane (omemWritePixel s (lanePixel s L) v) L') :=
    ⟨rfl, rfl, rfl, rfl, rfl, rfl, rfl, rfl, rfl, rfl⟩
  obtain ⟨hy', hx', hrem'⟩ := hadvance
  have hxNat := toNat_succ_of_lt hx
  have hremNat := toNat_pred_of_ne_zero hrem
  refine ⟨rfl, rfl, rfl, rfl, rfl, htracks, hsteps, fun x y hxi hyi h => ?kept, fun x y ho => ?owed,
    fun i hi => hother ?outside⟩
  case kept =>
    by_cases hsamePixel : y * s.sched.aw.toNat + x = L.y.toNat * s.sched.aw.toNat + L.x.toNat
    · obtain ⟨rfl, rfl⟩ := pixel_eq_of_number_eq hx hxi hsamePixel
      exact hdone
    · refine pixelDone_congr hsame (fun c => hother ?_) h
      rw [lanePixel, pixelNumber]
      omega
  case owed =>
    rcases ho with ⟨hload, -⟩ | ⟨-, hrow, hlow, hhigh⟩
    · simp [hst] at hload
    · rcases Nat.eq_or_lt_of_le hlow with rfl | hlow
      · exact .inr (hrow ▸ hdone)
      · refine .inl (.inr ⟨hst', hy' ▸ hrow, ?_, ?_⟩)
        · rw [hx', hxNat]
          exact hlow
        · rw [hx', hrem', hxNat, hremNat]
          omega
  case outside =>
    have hcell := pixelNumber_lt _ _ _ _ _ hx hy le_rfl
    rw [lanePixel, pixelNumber]
    omega

end

/-! ## LDESC, and the first state of an item (R193) -/

section
variable {s : State} {L : Lane} (hact : actingLane s L) (htracks : LaneTracks s L)
include hact htracks

/-- The record that LDESC makes of a legal descriptor. -/
def unpacked (L : Lane) (kind : ItemKind) : Lane :=
  { L with
    kind := kind, y := descY L.dreg, x := descX0 L.dreg, rem := descN L.dreg,
    col := if kind = .conv then descX0 L.dreg - 1 else 0, wv := 0, av := .none, st := .run }

omit hact htracks in
/-- What the descriptor has promised, the lane owes. -/
theorem laneOwes_unpacked (hst : L.st = .load) (kind : ItemKind) (x y : Nat) (ho : laneOwes L x y) :
    laneOwes (unpacked L kind) x y := by
  rcases ho with ⟨-, hrow, hcol⟩ | ⟨hrun, -⟩
  · exact .inr ⟨rfl, hrow, hcol⟩
  · simp [hst] at hrun

omit hact in
theorem passProgress_unpacked (hst : L.st = .load) (hkind : descKind L.dreg = 2) :
    PassProgress s (unpacked L .pass) where
  row := (htracks.load hst).row
  columns := (htracks.load hst).columns
  copied := htracks.loadPass hst hkind

omit hact in
theorem convProgress_unpacked (hst : L.st = .load) (hkind : descKind L.dreg = 1) :
    ConvProgress s (unpacked L .conv) := by
  have hdesc := htracks.load hst
  obtain ⟨hrow, hrow', hcol, hcol', hpol, hwide, hhigh⟩ := hdesc.conv hkind
  have hcount := hdesc.count
  have hx0 : descX0 L.dreg ≠ 0 := by bv_omega
  have hcolNat : (unpacked L .conv).col.toNat + 1 = (descX0 L.dreg).toNat := by
    simp only [unpacked, if_true, toNat_pred_of_ne_zero hx0]
    omega
  refine ⟨⟨(isFilter_iff _).1 hpol, ⟨hwide, hhigh⟩, ⟨hrow, hrow'⟩⟩, ⟨hcol, hcol'⟩, fun _ => ⟨?_, hcolNat, rfl⟩,
    fun hwv => absurd hwv (by simp [unpacked]), fun r j c hvalid => ?_, by rintro ⟨⟩, by rintro ⟨⟩⟩
  · simp only [unpacked]
    bv_omega
  · have hwv : (unpacked L .conv).wv.toNat = 0 := rfl
    simp only [columnValid, hwv, decide_eq_true_eq] at hvalid
    omega

theorem laneWork_ldesc (hst : L.st = .load) :
    ∃ t L', exec .ldesc s = .next t ∧ LaneWork s L t L' := by
  have hdesc := htracks.load hst
  rcases hdesc.kind with hkind | hkind
  · have hcol : descX0 L.dreg ≠ 0 := by
      obtain ⟨-, -, hcol, -⟩ := hdesc.conv hkind
      bv_omega
    have hconv : kindOfField (descKind L.dreg) = some .conv := by rw [hkind]; rfl
    have hprogress := convProgress_unpacked htracks hst hkind
    refine ⟨_, unpacked L .conv, exec_ldesc_of_legal hact hst hconv hdesc.zero fun h => hcol h.2,
      laneWork_withLane (L' := unpacked L .conv) (laneTracks_of_conv rfl rfl hprogress) ?_ (laneOwes_unpacked hst .conv)⟩
    have hrem := (hprogress.priming (by simp [unpacked])).1
    rw [laneStepsLeft_load hst, hkind]
    refine (congrArg (· + 1) (laneStepsLeft_priming (L := unpacked L .conv) rfl rfl hrem (by simp [unpacked]))).trans ?_
    simp only [unpacked, itemSteps, decide_true, if_true, BitVec.ofNat_eq_ofNat, BitVec.toNat_ofNat]
    omega
  · have hpass : kindOfField (descKind L.dreg) = some .pass := by rw [hkind]; rfl
    refine ⟨_, unpacked L .pass, exec_ldesc_of_legal hact hst hpass hdesc.zero (by simp),
      laneWork_withLane (L' := unpacked L .pass) (laneTracks_of_pass rfl rfl (passProgress_unpacked htracks hst hkind)) ?_
        (laneOwes_unpacked hst .pass)⟩
    rw [laneStepsLeft_load hst, hkind, laneStepsLeft_pass (L := unpacked L .pass) rfl rfl]
    rfl

end

/-! ## RETIRE (R199) and PASS (R246) -/

section
variable {s : State} {L : Lane} (hact : actingLane s L)
include hact

theorem laneWork_retire (hst : L.st = .run) (hrem : L.rem = 0) :
    ∃ t L', exec .retire s = .next t ∧ LaneWork s L t L' := by
  refine ⟨_, { L with st := .idle, kind := .none, wv := 0, av := .none }, exec_retire_of_done hact ⟨hst, hrem⟩,
    rfl, rfl, rfl, rfl, rfl, laneTracks_of_idle rfl, ?_, fun _ _ _ _ hdone => hdone, fun x y ho => ?_,
    fun _ _ => rfl⟩
  · rw [laneStepsLeft_idle rfl, laneStepsLeft_done hst hrem]
  · rcases ho with ⟨hload, -⟩ | ⟨-, -, hlow, hhigh⟩
    · simp [hst] at hload
    · have hzero : L.rem.toNat = 0 := congrArg BitVec.toNat hrem
      omega

omit hact in
/-- The writing part in the image of a run: the image fits the memories (R73). -/
theorem writeLanePixel_in_run (hshape : RunShape s) (L' : Lane) (v : Tri Sample)
    (hx : L.x.toNat < s.sched.aw.toNat) (hy : L.y.toNat < s.sched.ah.toNat) :
    writeLanePixel s L L' v = .next (withLane (omemWritePixel s (lanePixel s L) v) L') := by
  have hcell : lanePixel s L < s.cfg.memPixels := pixelNumber_lt _ _ _ _ _ hx hy hshape.fits
  obtain ⟨-, -, -, h⟩ | ⟨-, -, hpast, -⟩ | ⟨hout, -⟩ := writeLanePixel_cases s L L' v
  · exact h
  · omega
  · omega

variable (hshape : RunShape s)
include hshape

theorem laneWork_pass (hst : L.st = .run) (hkind : L.kind = .pass) (hrem : L.rem ≠ 0) (hprogress : PassProgress s L) :
    ∃ t L', exec .pass s = .next t ∧ LaneWork s L t L' := by
  have hcols := hprogress.columns
  have hremPos := toNat_pos_of_ne_zero hrem
  have hx : L.x.toNat < s.sched.aw.toNat := by omega
  have hxNat := toNat_succ_of_lt hx
  have hremNat := toNat_pred_of_ne_zero hrem
  have hcopied := hprogress.copied L.x.toNat le_rfl (by omega)
  refine ⟨_, passAdvance L,
    (exec_pass_of_inProgress hact ⟨hst, hkind, hrem⟩).trans
      (writeLanePixel_in_run hshape (passAdvance L) _ hx hprogress.row),
    laneWork_write hact.1 hst hst hx hprogress.row hrem ⟨rfl, rfl, rfl⟩ (fun c => ?value)
      (laneTracks_of_pass hst hkind ⟨hprogress.row, ?columns, fun x hlow hhigh => ?copied⟩) ?steps⟩
  case value =>
    rw [tri_get_of, refApply_of_not_filtered hcopied]
    rfl
  case columns =>
    simp only [passAdvance, hxNat, hremNat]
    omega
  case copied =>
    simp only [passAdvance, hxNat, hremNat] at hlow hhigh
    exact hprogress.copied x (by omega) (by omega)
  case steps =>
    rw [laneStepsLeft_pass hst hkind, laneStepsLeft_pass (L := passAdvance L) hst hkind]
    simp only [passAdvance, hremNat]
    omega

/-! ## CONV items: the window is filled and centred (R196, R198) -/

omit hact hshape in
/-- While the window is not centred, it is being primed or one column behind, and there is room in the image. -/
theorem column_of_not_centred (hprogress : ConvProgress s L)
    (hwin : L.wv ≠ 3 ∨ L.col.toNat ≠ L.x.toNat + 2) :
    (L.wv.toNat < 3 ∧ L.col.toNat + 1 = L.x.toNat + L.wv.toNat) ∨ (L.wv.toNat = 3 ∧ L.col.toNat = L.x.toNat + 1) := by
  by_cases hwv : L.wv = 3
  · right
    rcases hprogress.primed hwv with ⟨hcol, -⟩ | ⟨hcol, -⟩
    · exact absurd hcol (hwin.resolve_left (not_not_intro hwv))
    · exact ⟨congrArg BitVec.toNat hwv, hcol⟩
  · have hlt : L.wv.toNat < 3 := by bv_omega
    exact .inl ⟨hlt, (hprogress.priming hlt).2.1⟩

/-- The record that WSHIFT makes. -/
def shifted (s : State) (L : Lane) : Lane :=
  { L with win := shiftWindow s L, col := L.col + 1, wv := nextWv L.wv, av := .none }

omit hact hshape in
/-- The shifted window holds IMEM in its valid columns. -/
theorem window_shifted (hprogress : ConvProgress s L) (hcol : L.col.toNat < s.sched.aw.toNat) (r j c : Fin 3)
    (hvalid : 3 ≤ j.val + min 3 (L.wv.toNat + 1)) :
    ((shiftWindow s L).at r j c).toNat =
      imageAt s s.sched.aw.toNat ((L.col + 1).toNat + j.val - 3) (L.y.toNat + r.val - 1) c := by
  obtain ⟨h0, h1, h2⟩ := shiftWindow_at s L r c
  have hold (k : Fin 3) (hk : 3 ≤ k.val + L.wv.toNat) :=
    hprogress.window r k c (by simpa [columnValid] using hk)
  rw [toNat_succ_of_lt hcol]
  match j with
  | 0 =>
    rw [h0, hold 1 (by simp only [Fin.val_zero] at hvalid; simp only [Fin.val_one]; omega)]
    rfl
  | 1 =>
    rw [h1, hold 2 (by simp only [Fin.val_one] at hvalid; simp only [Fin.val_two]; omega)]
    rfl
  | 2 =>
    rw [h2]
    rfl

theorem laneWork_wshift (hst : L.st = .run) (hkind : L.kind = .conv) (hrem : L.rem ≠ 0)
    (hprogress : ConvProgress s L) (hwin : L.wv ≠ 3 ∨ L.col.toNat ≠ L.x.toNat + 2) :
    ∃ t L', exec .wshift s = .next t ∧ LaneWork s L t L' := by
  obtain ⟨hrow, hrow'⟩ := hprogress.rows
  obtain ⟨hx, hcols⟩ := hprogress.columns
  have hremPos := toNat_pos_of_ne_zero hrem
  have hcase := column_of_not_centred hprogress hwin
  have hcol : L.col.toNat < s.sched.aw.toNat := by omega
  have hcolNat : (shifted s L).col.toNat = L.col.toNat + 1 := toNat_succ_of_lt hcol
  have hxSame : (shifted s L).x = L.x := rfl
  have hbounds : shiftInBounds s L = true := (shiftInBounds_iff s L).2 ⟨hrow, by omega, hcol⟩
  have hcell : pixelExists s (pixelNumber s L.col.toNat (L.y.toNat + 1)) = true :=
    (pixelExists_iff s _).2 (pixelNumber_lt _ _ _ _ _ hcol (by omega) hshape.fits)
  have hwvNat : (shifted s L).wv.toNat = min 3 (L.wv.toNat + 1) := by
    rw [shifted, nextWv_eq_ofNat, BitVec.toNat_ofNat]
    omega
  refine ⟨_, shifted s L,
    exec_wshift_in_bounds hact ((convInProgress_iff L).2 ⟨hst, hkind, hrem⟩) hbounds hcell,
    laneWork_withLane (L' := shifted s L) (laneTracks_of_conv hst hkind ⟨⟨hprogress.policy, hprogress.shape, hprogress.rows⟩, ⟨hx, hcols⟩, fun hlt => ?priming,
      fun hfull => ?primed, fun r j c hvalid => ?window, by rintro ⟨⟩, by rintro ⟨⟩⟩) ?steps fun _ _ ho => ho⟩
  case priming =>
    rw [hwvNat] at hlt
    exact ⟨hrem, by rw [hcolNat, hwvNat, hxSame]; omega, rfl⟩
  case primed =>
    have hfull' : min 3 (L.wv.toNat + 1) = 3 := hwvNat.symm.trans (congrArg BitVec.toNat hfull)
    exact .inl ⟨by rw [hcolNat, hxSame]; omega, hrem⟩
  case window =>
    simp only [columnValid, hwvNat, decide_eq_true_eq] at hvalid
    exact window_shifted hprogress hcol r j c hvalid
  case steps =>
    rcases hcase with ⟨hlt, hprime⟩ | ⟨hfull, hbehind⟩
    · rw [laneStepsLeft_priming hst hkind hrem (by bv_omega)]
      by_cases hfull : (shifted s L).wv = 3
      · have hfull' : min 3 (L.wv.toNat + 1) = 3 := hwvNat.symm.trans (congrArg BitVec.toNat hfull)
        rw [laneStepsLeft_centred (L := shifted s L) hst hkind hrem hfull (by rw [hcolNat, hxSame]; omega) rfl]
        simp only [shifted]
        omega
      · have hlt' : (shifted s L).wv.toNat < 3 := by bv_omega
        rw [laneStepsLeft_priming (L := shifted s L) hst hkind hrem hfull, hwvNat]
        rw [hwvNat] at hlt'
        simp only [shifted]
        omega
    · have hfull' : (shifted s L).wv = 3 := by bv_omega
      rw [laneStepsLeft_behind hst hkind hrem (by bv_omega) (by omega),
        laneStepsLeft_centred (L := shifted s L) hst hkind hrem hfull' (by rw [hcolNat, hxSame]; omega) rfl]
      rfl

/-! ## CONV items: the sums of a centred window (R211, R212) -/

omit hact hshape in
theorem windowCentred_of_progress (hprogress : ConvProgress s L) (hwv : L.wv = 3)
    (hcol : L.col.toNat = L.x.toNat + 2) :
    WindowCentred (imageAt s s.sched.aw.toNat) L.x.toNat L.y.toNat L.win := by
  intro r j c
  have hcolumn : L.col.toNat + j.val - 3 = L.x.toNat + j.val - 1 := by omega
  rw [hprogress.window r j c (by simp [columnValid, hwv]), hcolumn]

omit hact hshape in
/-- New sums of a centred window, valid for the policy they are formed under. -/
theorem convProgress_summed (hprogress : ConvProgress s L) (hrem : L.rem ≠ 0) (hwv : L.wv = 3)
    (hcol : L.col.toNat = L.x.toNat + 2) {sum gx gy : Tri Acc} {av : AccValid}
    (havg : av = .avg → s.sched.apol = 1 ∧
      ∀ c, (sum.get c).toNat = refSum (imageAt s s.sched.aw.toNat) L.x.toNat L.y.toNat c)
    (hsob : av = .sob → s.sched.apol = 2 ∧
      ∀ c, (gx.get c).toInt = refGx (imageAt s s.sched.aw.toNat) L.x.toNat L.y.toNat c
        ∧ (gy.get c).toInt = refGy (imageAt s s.sched.aw.toNat) L.x.toNat L.y.toNat c) :
    ConvProgress s { L with sum := sum, gx := gx, gy := gy, av := av } where
  policy := hprogress.policy
  shape := hprogress.shape
  rows := hprogress.rows
  columns := hprogress.columns
  priming := fun hlt => absurd hlt (by simp [hwv])
  primed := fun _ => .inl ⟨hcol, hrem⟩
  window := hprogress.window
  average := havg
  sobel := hsob

section
variable (hst : L.st = .run) (hkind : L.kind = .conv) (hrem : L.rem ≠ 0) (hprogress : ConvProgress s L)
  (hwv : L.wv = 3) (hcol : L.col.toNat = L.x.toNat + 2)
include hst hkind hrem hprogress hwv hcol

omit hact hshape hprogress in
/-- Forming the sums is one step: the pixel is then ready to be written. -/
theorem laneStepsLeft_of_summing (hav : L.av = .none) {sum gx gy : Tri Acc} {av : AccValid} (hav' : av ≠ .none) :
    laneStepsLeft { L with sum := sum, gx := gx, gy := gy, av := av } + 1 = laneStepsLeft L := by
  have hremPos := toNat_pos_of_ne_zero hrem
  rw [laneStepsLeft_centred hst hkind hrem hwv hcol hav,
    laneStepsLeft_summed (L := { L with sum := sum, gx := gx, gy := gy, av := av }) hst hkind hrem hwv hcol hav']
  simp only
  omega

omit hshape in
theorem laneWork_accAvg (hav : L.av = .none) (hpol : s.sched.apol = 1) :
    ∃ t L', exec .accAvg s = .next t ∧ LaneWork s L t L' := by
  have hcentred := windowCentred_of_progress hprogress hwv hcol
  refine ⟨_, { L with sum := .of fun c => BitVec.ofNat 12 (boxSum L.win c), av := .avg },
    exec_accAvg_of_centred hact (centredWindow_eq_win ⟨hst, hkind, hrem, hwv, hcol⟩),
    laneWork_withLane (laneTracks_of_conv hst hkind
      (convProgress_summed hprogress hrem hwv hcol (fun _ => ⟨hpol, fun c => ?_⟩) (by rintro ⟨⟩)))
      (laneStepsLeft_of_summing hst hkind hrem hwv hcol hav (by simp)) fun _ _ ho => ho⟩
  rw [tri_get_of, toNat_ofNat_boxSum, boxSum_of_windowCentred hcentred]

omit hshape in
theorem laneWork_accSob (hav : L.av = .none) (hpol : s.sched.apol = 2) :
    ∃ t L', exec .accSob s = .next t ∧ LaneWork s L t L' := by
  have hcentred := windowCentred_of_progress hprogress hwv hcol
  refine ⟨_, { L with
      gx := .of fun c => BitVec.ofInt 12 (kernelSum kx L.win c)
      gy := .of fun c => BitVec.ofInt 12 (kernelSum ky L.win c)
      av := .sob },
    exec_accSob_of_centred hact (centredWindow_eq_win ⟨hst, hkind, hrem, hwv, hcol⟩),
    laneWork_withLane (laneTracks_of_conv hst hkind
      (convProgress_summed hprogress hrem hwv hcol (by rintro ⟨⟩) (fun _ => ⟨hpol, fun c => ⟨?_, ?_⟩⟩)))
      (laneStepsLeft_of_summing hst hkind hrem hwv hcol hav (by simp)) fun _ _ ho => ho⟩
  · rw [tri_get_of, toInt_ofInt_kernelSum_kx, kernelSum_kx_of_windowCentred hcentred]
  · rw [tri_get_of, toInt_ofInt_kernelSum_ky, kernelSum_ky_of_windowCentred hcentred]

/-! ## CONV items: the pixel is written (R232, R233) -/

omit hact hshape hst hkind in
/-- After the advance the window is one column behind (R191). -/
theorem convProgress_emitAdvance : ConvProgress s (emitAdvance L) := by
  obtain ⟨hx, hcols⟩ := hprogress.columns
  have hremPos := toNat_pos_of_ne_zero hrem
  have hxNat : (emitAdvance L).x.toNat = L.x.toNat + 1 := toNat_succ_of_lt (b := s.sched.aw) (by omega)
  have hremNat : (emitAdvance L).rem.toNat = L.rem.toNat - 1 := toNat_pred_of_ne_zero hrem
  refine ⟨⟨hprogress.policy, hprogress.shape, hprogress.rows⟩, ⟨by omega, by omega⟩,
    fun hlt => absurd hlt ?_, fun _ => .inr ⟨?_, rfl⟩, hprogress.window, by rintro ⟨⟩, by rintro ⟨⟩⟩
  · simp [emitAdvance, hwv]
  · rw [hxNat]
    exact hcol

/-- EMIT.AVG and EMIT.SOB, whose value is the reference result. -/
theorem laneWork_emit (hav : L.av ≠ .none) {v : Tri Sample}
    (hvalue : ∀ c, (v.get c).toNat = refApply s.cfg.magRound s.sched.aw.toNat s.sched.ah.toNat s.sched.apol
      (imageAt s s.sched.aw.toNat) L.x.toNat L.y.toNat c) :
    ∃ t L', writeLanePixel s L (emitAdvance L) v = .next t ∧ LaneWork s L t L' := by
  obtain ⟨hx, hcols⟩ := hprogress.columns
  obtain ⟨hrow, hrow'⟩ := hprogress.rows
  have hremPos := toNat_pos_of_ne_zero hrem
  have hxIn : L.x.toNat < s.sched.aw.toNat := by omega
  have hyIn : L.y.toNat < s.sched.ah.toNat := by omega
  have hprogress' := convProgress_emitAdvance hrem hprogress hwv hcol
  refine ⟨_, emitAdvance L, writeLanePixel_in_run hshape (emitAdvance L) v hxIn hyIn,
    laneWork_write hact.1 hst hst hxIn hyIn hrem ⟨rfl, rfl, rfl⟩ hvalue
      (laneTracks_of_conv hst hkind hprogress') ?_⟩
  rw [laneStepsLeft_summed hst hkind hrem hwv hcol hav]
  have hremNat : (emitAdvance L).rem.toNat = L.rem.toNat - 1 := toNat_pred_of_ne_zero hrem
  by_cases hlast : (emitAdvance L).rem = 0
  · have hzero : (emitAdvance L).rem.toNat = 0 := congrArg BitVec.toNat hlast
    rw [laneStepsLeft_done (L := emitAdvance L) hst hlast]
    omega
  · have hpos := toNat_pos_of_ne_zero hlast
    have hxNat : (emitAdvance L).x.toNat = L.x.toNat + 1 := toNat_succ_of_lt hxIn
    have hcolSame : (emitAdvance L).col = L.col := rfl
    rw [laneStepsLeft_behind (L := emitAdvance L) hst hkind hlast hwv (by rw [hxNat, hcolSame]; omega), hremNat]
    omega

omit hact hshape hst hkind hwv hcol in
/-- The pixels of a CONV item are interior (R171). -/
theorem interior_of_progress :
    interior s.sched.aw.toNat s.sched.ah.toNat L.x.toNat L.y.toNat = true := by
  obtain ⟨hx, hcols⟩ := hprogress.columns
  obtain ⟨hrow, hrow'⟩ := hprogress.rows
  have hremPos := toNat_pos_of_ne_zero hrem
  rw [interior_iff]
  omega

theorem laneWork_emitAvg (hav : L.av = .avg) : ∃ t L', exec .emitAvg s = .next t ∧ LaneWork s L t L' := by
  obtain ⟨hpol, hsum⟩ := hprogress.average hav
  rw [exec_emitAvg_of_ready hact ⟨hst, hkind, hrem, hav⟩]
  refine laneWork_emit hact hshape hst hkind hrem hprogress hwv hcol (by simp [hav]) fun c => ?_
  have hle := refSum_imageAt_le s s.sched.aw.toNat L.x.toNat L.y.toNat c
  rw [tri_get_of, toNat_ofNat_min, hsum, hpol,
    refApply_avg_of_interior _ _ c (interior_of_progress hrem hprogress), refAvg]
  omega

theorem laneWork_emitSob (hav : L.av = .sob) : ∃ t L', exec .emitSob s = .next t ∧ LaneWork s L t L' := by
  obtain ⟨hpol, hsums⟩ := hprogress.sobel hav
  rw [exec_emitSob_of_ready hact ⟨hst, hkind, hrem, hav⟩]
  refine laneWork_emit hact hshape hst hkind hrem hprogress hwv hcol (by simp [hav]) fun c => ?_
  obtain ⟨hgx, hgy⟩ := hsums c
  rw [tri_get_of, toNat_ofNat_min, hgx, hgy, hpol,
    refApply_sob_of_interior _ _ c (interior_of_progress hrem hprogress), refSob, mag2, sq, sq]

end

/-! ## Every step of a lane that tracks its item -/

theorem laneWork_conv (hst : L.st = .run) (hkind : L.kind = .conv) (hrem : L.rem ≠ 0)
    (hprogress : ConvProgress s L) :
    ∃ code i t L', nextUop s.sched.apol L = .issue code ∧ decode (.u code) = some i ∧ exec i s = .next t ∧
      LaneWork s L t L' := by
  have hpol := hprogress.policy
  by_cases hwin : L.wv ≠ 3 ∨ L.col.toNat ≠ L.x.toNat + 2
  · obtain ⟨t, L', hexec, hwork⟩ := laneWork_wshift hact hshape hst hkind hrem hprogress hwin
    exact ⟨2, .wshift, t, L', nextUop_shift hst hrem hkind hpol hwin, rfl, hexec, hwork⟩
  rw [not_or, not_not, not_not] at hwin
  obtain ⟨hwv, hcol⟩ := hwin
  obtain ⟨hnone, havg, hsob⟩ := nextUop_centred hst hrem hkind hpol hwv hcol
  cases hav : L.av with
  | none =>
    rcases hpol with hpol | hpol
    · obtain ⟨t, L', hexec, hwork⟩ := laneWork_accAvg hact hst hkind hrem hprogress hwv hcol hav hpol
      exact ⟨3, .accAvg, t, L', (hnone hav).trans (if_pos hpol), rfl, hexec, hwork⟩
    · obtain ⟨t, L', hexec, hwork⟩ := laneWork_accSob hact hst hkind hrem hprogress hwv hcol hav hpol
      exact ⟨4, .accSob, t, L', (hnone hav).trans (if_neg (by rw [hpol]; decide)), rfl, hexec, hwork⟩
  | avg =>
    obtain ⟨t, L', hexec, hwork⟩ := laneWork_emitAvg hact hshape hst hkind hrem hprogress hwv hcol hav
    exact ⟨5, .emitAvg, t, L', havg hav, rfl, hexec, hwork⟩
  | sob =>
    obtain ⟨t, L', hexec, hwork⟩ := laneWork_emitSob hact hshape hst hkind hrem hprogress hwv hcol hav
    exact ⟨6, .emitSob, t, L', hsob hav, rfl, hexec, hwork⟩

/-- A busy lane that tracks its item issues an operation, and the operation is one step of its work. -/
theorem laneWork_of_tracks (htracks : LaneTracks s L) (hbusy : L.st ≠ .idle) :
    ∃ code i t L', nextUop s.sched.apol L = .issue code ∧ decode (.u code) = some i ∧ exec i s = .next t ∧
      LaneWork s L t L' := by
  cases hst : L.st with
  | idle => exact absurd hst hbusy
  | load =>
    obtain ⟨t, L', hexec, hwork⟩ := laneWork_ldesc hact htracks hst
    exact ⟨1, .ldesc, t, L', nextUop_load hst, rfl, hexec, hwork⟩
  | run =>
    by_cases hrem : L.rem = 0
    · obtain ⟨t, L', hexec, hwork⟩ := laneWork_retire hact hst hrem
      exact ⟨8, .retire, t, L', nextUop_done hst hrem, rfl, hexec, hwork⟩
    · cases hkind : L.kind with
      | none => exact absurd hkind (htracks.kind hst)
      | pass =>
        obtain ⟨t, L', hexec, hwork⟩ := laneWork_pass hact hshape hst hkind hrem (htracks.pass hst hkind)
        exact ⟨7, .pass, t, L', nextUop_pass hst hrem hkind, rfl, hexec, hwork⟩
      | conv => exact laneWork_conv hact hshape hst hkind hrem (htracks.conv hst hkind)

end

end Sys2Proof.Proofs
end

section
/-! The invariant of a run of hardware that follows the spec (10_state.md R64 (e), 20_memory.md R82 and R90,
42_scheduler.md R182 and R186, 43_window_shifter.md R196): every step keeps it, raises no fault during a run, and brings
the run one step closer to its JOIN, which leaves the reference image. -/

open Sys2Proof Sys2Proof.Machine

namespace Sys2Proof.Proofs

/-! ## What the invariant speaks of stays the same during a run -/

section
variable {s t : State} (hsame : SameRun s t)
include hsame

theorem runItems_congr : runItems t = runItems s := by
  rw [runItems, runItems, hsame.aw, hsame.ah, hsame.apol, hsame.achunk]

theorem pixelFiltered_congr {x y : Nat} : pixelFiltered t x y ↔ pixelFiltered s x y := by
  rw [pixelFiltered, pixelFiltered, hsame.aw, hsame.ah, hsame.apol]

theorem convShape_congr {L : Lane} (h : ConvShape s L) : ConvShape t L := by
  obtain ⟨hpol, hshape, hrows⟩ := h
  rw [← hsame.apol] at hpol
  rw [← hsame.aw, ← hsame.ah] at hshape
  rw [← hsame.ah] at hrows
  exact ⟨hpol, hshape, hrows⟩

theorem passProgress_congr {L : Lane} (h : PassProgress s L) : PassProgress t L where
  row := by rw [hsame.ah]; exact h.row
  columns := by rw [hsame.aw]; exact h.columns
  copied := fun x hlow hhigh => mt (pixelFiltered_congr hsame).1 (h.copied x hlow hhigh)

theorem convProgress_congr {L : Lane} (h : ConvProgress s L) : ConvProgress t L where
  toConvShape := convShape_congr hsame h.toConvShape
  columns := by rw [hsame.aw]; exact h.columns
  priming := h.priming
  primed := h.primed
  window := by rw [imageAt_congr hsame, hsame.aw]; exact h.window
  average := by rw [imageAt_congr hsame, hsame.aw, hsame.apol]; exact h.average
  sobel := by rw [imageAt_congr hsame, hsame.aw, hsame.apol]; exact h.sobel

theorem laneTracks_congr {L : Lane} (h : LaneTracks s L) : LaneTracks t L where
  load := by rw [hsame.aw, hsame.ah, hsame.apol]; exact h.load
  loadPass := fun hst hkind x hlow hhigh => mt (pixelFiltered_congr hsame).1 (h.loadPass hst hkind x hlow hhigh)
  kind := h.kind
  pass := fun hst hkind => passProgress_congr hsame (h.pass hst hkind)
  conv := fun hst hkind => convProgress_congr hsame (h.conv hst hkind)

theorem pixelPending_congr (hnext : t.sched.next = s.sched.next) {x y : Nat} (h : pixelPending s x y) :
    pixelPending t x y := by
  rwa [pixelPending, runItems_congr hsame, hnext]

end

/-- The invariant of a run does not look at the response, the acting lane and the draws. -/
theorem runInv_with_env {s : State} (h : RunInv s) {e : Env} (hepoch : e.epoch = s.env.epoch)
    (hspec : ∀ m ∈ e.agenda, moveBySpec m = true) : RunInv { s with env := e } := by
  have hsame : SameRun s { s with env := e } := ⟨rfl, rfl, hepoch, rfl, rfl, rfl, rfl, rfl, rfl, rfl⟩
  refine ⟨machineInv_with_env h.machine e, hspec, fun L hL hst hkind => convShape_congr hsame
    (h.convLanes L hL hst hkind), fun hrun L hL => laneTracks_congr hsame (h.tracks hrun L hL),
    fun hrun x y hx hy => ?_⟩
  have hread : ∀ i, omemRead { s with env := e } i = omemRead s i := omemRead_congr rfl rfl hepoch
  rcases h.accounted hrun x y hx hy with hdone | hpending | howed
  · exact .inl (pixelDone_congr hsame (fun c => hread _) hdone)
  · exact .inr (.inl (pixelPending_congr hsame rfl hpending))
  · exact .inr (.inr howed)

/-! ## The three ways a run goes on -/

/-- An enabled step of the scheduler or of a lane, taken from `s` (R175, R180, R190). -/
inductive Progress (s : State) : State → Prop
  /-- The next item goes to an idle lane. -/
  | dispatch {l : Nat} {L : Lane} {it : Item} (choice : Nat) (hready : dispatchReady s = true)
      (hit : nextItem? s = some it) (hL : s.lanes[l]? = some L) (hidle : L.st = .idle) :
      Progress s { setLane (withWho s choice) l { L with dreg := itemWord it, st := .load } with
        sched := { s.sched with next := s.sched.next + 1 } }
  /-- A lane goes on with its item. -/
  | lane {l : Nat} {L L' : Lane} {t : State} (hL : s.lanes[l]? = some L) (hsame : SameRun s t)
      (hwork : LaneWork (withWho s l) L t L') : Progress s t
  /-- The run ends. -/
  | join (hready : joinReady s = true) : Progress s (joined s)

/-- A step that leaves the run where it is: a host operation, or a move that is not enabled. -/
structure Quiet (s t : State) : Prop where
  same : SameRun s t
  lanes : t.lanes = s.lanes
  sched : t.sched = s.sched
  omem : t.omem = s.omem

section
variable {s : State}

/-- No move during a run but reset changes the run's configuration. -/
theorem sameRun_of_moveStep {m : Move} {t : State} (hm : m ≠ .reset) (hrun : s.sched.sst = .run)
    (hstep : moveStep m s = .next t) : SameRun s t := by
  obtain ⟨l, heffect⟩ := stepEffect_moveStep hm s
  have hwho : SameRun s (withWho s l) := ⟨rfl, rfl, rfl, rfl, rfl, rfl, rfl, rfl, rfl, rfl⟩
  exact hwho.trans (sameRun_of_stepEffect (hstep ▸ heffect) hrun)

variable (h : RunInv s) (hrun : s.sched.sst = .run)
include h hrun

theorem progress_of_dispatchReady (hready : dispatchReady s = true) (choice : Nat) :
    ∃ t, moveStep (.dispatch choice) s = .next t ∧ Progress s t := by
  obtain ⟨-, hnext, -⟩ := (dispatchReady_iff s).1 hready
  have hlength := (h.machine.running hrun).length
  rw [BitVec.lt_def] at hnext
  have hit : nextItem? s = some (runItems s)[s.sched.next.toNat] :=
    List.getElem?_eq_getElem (by omega)
  obtain ⟨l, L, -, -, hL, hidle, hd⟩ := deliver_of_ready (s := withWho s choice) hready (itemWord _)
  exact ⟨_, (moveStep_dispatch hready hit choice).trans hd, .dispatch choice hready hit hL hidle⟩

theorem progress_of_laneBusy {l : Nat} (hbusy : laneBusy s l = true) :
    ∃ t, moveStep (.lane l) s = .next t ∧ Progress s t := by
  obtain ⟨L, hL, hst⟩ := (laneBusy_iff s l).1 hbusy
  have hwho : SameRun s (withWho s l) := ⟨rfl, rfl, rfl, rfl, rfl, rfl, rfl, rfl, rfl, rfl⟩
  have hact : actingLane (withWho s l) L := ⟨hrun, hL⟩
  obtain ⟨code, i, t, L', hnext, hdecode, hexec, hwork⟩ := laneWork_of_tracks hact
    (runShape_with_env (h.machine.running hrun) _)
    (laneTracks_congr hwho (h.tracks hrun L (List.mem_of_getElem? hL))) hst
  have hstep : moveStep (.lane l) s = .next t := (moveStep_lane_exec hrun hL hnext hdecode).trans hexec
  exact ⟨t, hstep, .lane hL (sameRun_of_moveStep (by simp) hrun hstep) hwork⟩

omit h hrun in
theorem progress_of_joinReady (hready : joinReady s = true) : ∃ t, moveStep .join s = .next t ∧ Progress s t :=
  ⟨_, congrArg Host.Outcome.next (joinStep_eq_joined hready), .join hready⟩

/-- Every enabled move makes progress. -/
theorem progress_of_enabled {m : Move} (hm : (dispatchReady s = true ∧ ∃ choice, m = .dispatch choice) ∨
    (joinReady s = true ∧ m = .join) ∨ ∃ l, laneBusy s l = true ∧ m = .lane l) :
    ∃ t, moveStep m s = .next t ∧ Progress s t := by
  obtain ⟨hready, choice, rfl⟩ | ⟨hready, rfl⟩ | ⟨l, hbusy, rfl⟩ := hm
  · exact progress_of_dispatchReady h hrun hready choice
  · exact progress_of_joinReady hready
  · exact progress_of_laneBusy h hrun hbusy

omit h in
theorem quiet_of_host {w : Request} {t : State} (hstep : moveStep (.host w) s = .next t) : Quiet s t := by
  have hsame := sameRun_of_moveStep (by simp) hrun hstep
  rw [moveStep_host] at hstep
  cases hd : decode (.h w) with
  | none =>
    rw [perform_undecodable hd] at hstep
    cases hstep
    exact ⟨hsame, rfl, rfl, rfl⟩
  | some i =>
    rw [perform_word hd] at hstep
    have heffect : ExecEffect i s (.next t) := hstep ▸ execEffect_exec i s
    obtain ⟨hmicro, hdispatch⟩ := not_inner_of_decode_host hd
    cases heffect with
    | host r v hx =>
      cases hx with
      | same => exact ⟨hsame, rfl, rfl, rfl⟩
      | registers => exact ⟨hsame, rfl, rfl, rfl⟩
      | sample hi hs => exact absurd hrun hs
      | drawn => exact ⟨hsame, rfl, rfl, rfl⟩
      | fault code hs => simp [hrun] at hs
      | start hs => simp [hrun] at hs
    | dispatch hi => exact absurd hi hdispatch
    | lane hi => exact absurd hi hmicro
    | frozen => exact ⟨hsame, rfl, rfl, rfl⟩

end

/-- Every move by the spec but reset makes progress or leaves the run where it is. -/
theorem progress_or_quiet_of_moveStep {s t : State} (h : RunInv s) (hrun : s.sched.sst = .run) {m : Move}
    (hspec : moveBySpec m = true) (hm : m ≠ .reset) (hstep : moveStep m s = .next t) :
    Progress s t ∨ Quiet s t := by
  have hprogress (hp : ∃ t, moveStep m s = .next t ∧ Progress s t) : Progress s t := by
    obtain ⟨t', ht', hp⟩ := hp
    cases hstep.symm.trans ht'
    exact hp
  have hstay (heq : moveStep m s = .next s) : Quiet s t := by
    cases hstep.symm.trans heq
    exact ⟨.refl s, rfl, rfl, rfl⟩
  cases m with
  | reset => exact absurd rfl hm
  | descr => cases hspec
  | uop => cases hspec
  | host w => exact .inr (quiet_of_host hrun hstep)
  | dispatch choice =>
    cases hready : dispatchReady s with
    | true => exact .inl (hprogress (progress_of_dispatchReady h hrun hready choice))
    | false => exact .inr (hstay (moveStep_dispatch_idle (.inl hready) choice))
  | join =>
    by_cases hready : joinReady s = true
    · exact .inl (hprogress (progress_of_joinReady hready))
    · exact .inr (hstay (congrArg Host.Outcome.next (joinStep_eq_self hready)))
  | lane l =>
    by_cases hbusy : laneBusy s l = true
    · exact .inl (hprogress (progress_of_laneBusy h hrun hbusy))
    · rw [laneBusy_iff, not_exists] at hbusy
      refine .inr (hstay ?_)
      cases hL : s.lanes[l]? with
      | none => exact moveStep_lane_frozen (.inr hL)
      | some L =>
        have hidle : L.st = .idle := by
          by_contra hst
          exact hbusy L ⟨hL, hst⟩
        exact moveStep_lane_wait hrun hL (nextUop_idle hidle)

/-- Every step of a run but reset makes progress or leaves the run where it is. -/
theorem progress_or_quiet_of_step {s t : State} (h : RunInv s) (hrun : s.sched.sst = .run) (hstep : step s = .next t)
    (hno : s.env.agenda.head? ≠ some .reset) :
    ∃ e : Env, RunInv { s with env := e } ∧ SameRun s { s with env := e } ∧ e.agenda = s.env.agenda.tail ∧
      (Progress { s with env := e } t ∨ Quiet { s with env := e } t) := by
  have henv {e : Env} (hepoch : e.epoch = s.env.epoch) : SameRun s { s with env := e } :=
    ⟨rfl, rfl, hepoch, rfl, rfl, rfl, rfl, rfl, rfl, rfl⟩
  cases hagenda : s.env.agenda with
  | cons m ms =>
    have hspec := h.bySpec
    rw [hagenda, List.forall_mem_cons] at hspec
    rw [step_of_agenda hagenda] at hstep
    have hm : m ≠ .reset := by
      rintro rfl
      exact hno (by rw [hagenda]; rfl)
    have h' : RunInv (popped s ms) := runInv_with_env h rfl hspec.2
    exact ⟨_, h', henv rfl, rfl, progress_or_quiet_of_moveStep h' hrun hspec.1 hm hstep⟩
  | nil =>
    rcases step_of_empty hagenda with ⟨-, hstay⟩ | ⟨m, hm, hmove⟩
    · cases hstep.symm.trans hstay
      exact ⟨s.env, h, .refl s, hagenda, .inr ⟨.refl s, rfl, rfl, rfl⟩⟩
    · have h' : RunInv (drawn s) := runInv_with_env h rfl h.bySpec
      obtain ⟨t', ht', hp⟩ := progress_of_enabled h' hrun (mem_enabledMoves hm).2
      rw [hmove, ht'] at hstep
      cases hstep
      exact ⟨_, h', henv rfl, hagenda, .inl hp⟩

/-! ## The invariant goes on with the run -/

/-- A lane's record is still in the list after another's has been replaced. -/
theorem eq_or_mem_set {lanes : List Lane} {l : Nat} {L L' M : Lane} (hL : lanes[l]? = some L) (hM : M ∈ lanes) :
    M = L ∨ M ∈ lanes.set l L' := by
  obtain ⟨k, hk⟩ := List.mem_iff_getElem?.1 hM
  by_cases hkl : l = k
  · subst hkl
    exact .inl (Option.some.inj (hk.symm.trans hL))
  · exact .inr (List.mem_of_getElem? ((List.getElem?_set_ne hkl).trans hk))

/-- What the invariant of a run asks of a run in progress. -/
structure RunGoesOn (t : State) : Prop where
  sst : t.sched.sst = .run
  tracks : ∀ L ∈ t.lanes, LaneTracks t L
  accounted : pixelsAccounted t

theorem runInv_of_goesOn {t : State} (hmachine : MachineInv t) (hspec : ∀ m ∈ t.env.agenda, moveBySpec m = true)
    (h : RunGoesOn t) : RunInv t where
  machine := hmachine
  bySpec := hspec
  convLanes := fun L hL hst hkind => ((h.tracks L hL).conv hst hkind).toConvShape
  tracks := fun _ => h.tracks
  accounted := fun _ => h.accounted

section
variable {s t : State} (h : RunInv s) (hrun : s.sched.sst = .run)
include h hrun

theorem runGoesOn_of_quiet (hq : Quiet s t) : RunGoesOn t where
  sst := by rw [hq.sched]; exact hrun
  tracks := by
    rw [hq.lanes]
    exact fun L hL => laneTracks_congr hq.same (h.tracks hrun L hL)
  accounted := by
    intro x y hx hy
    rw [hq.same.aw] at hx
    rw [hq.same.ah] at hy
    have hread : ∀ i, omemRead t i = omemRead s i := by
      have hmid : midRunFault t = midRunFault s := by
        rw [midRunFault_of_ne_fault s (by simp [hrun]), midRunFault_of_ne_fault t (by simp [hq.sched, hrun])]
      exact omemRead_congr hmid hq.omem hq.same.epoch
    rw [hq.lanes]
    rcases h.accounted hrun x y hx hy with hdone | hpending | howed
    · exact .inl (pixelDone_congr hq.same (fun c => hread _) hdone)
    · exact .inr (.inl (pixelPending_congr hq.same (by rw [hq.sched]) hpending))
    · exact .inr (.inr howed)

theorem runGoesOn_of_lane {l : Nat} {L L' : Lane} (hL : s.lanes[l]? = some L) (hsame : SameRun s t)
    (hwork : LaneWork (withWho s l) L t L') : RunGoesOn t where
  sst := hwork.sst.trans hrun
  tracks := by
    intro M hM
    rw [hwork.lanes] at hM
    rcases List.mem_or_eq_of_mem_set hM with hM | rfl
    · exact laneTracks_congr hsame (h.tracks hrun M hM)
    · have hwho : SameRun (withWho s l) t :=
        ⟨hsame.cfg, hsame.imem, hsame.epoch, hsame.aw, hsame.ah, hsame.apol, hsame.apar, hsame.achunk, hsame.u,
          hsame.nitems⟩
      exact laneTracks_congr hwho hwork.tracks
  accounted := by
    intro x y hx hy
    rw [hsame.aw] at hx
    rw [hsame.ah] at hy
    rw [hwork.lanes]
    have hlt := (List.getElem?_eq_some_iff.1 hL).1
    rcases h.accounted hrun x y hx hy with hdone | hpending | ⟨M, hM, howed⟩
    · exact .inl (hwork.kept x y hx hy hdone)
    · exact .inr (.inl (pixelPending_congr hsame hwork.next hpending))
    · rcases eq_or_mem_set (L' := L') hL hM with rfl | hM
      · rcases hwork.owed x y howed with howed | hdone
        · exact .inr (.inr ⟨L', List.mem_set hlt L', howed⟩)
        · exact .inl hdone
      · exact .inr (.inr ⟨M, hM, howed⟩)

/-- The items of a run in progress are sound: the latched shape is not empty. -/
theorem itemSound_of_nextItem {it : Item} (hit : nextItem? s = some it) :
    ItemSound s.sched.aw.toNat s.sched.ah.toNat s.sched.apol it :=
  itemSound_of_mem_items (toNat_pos_of_ne_zero (h.machine.running hrun).shape.1) (List.mem_of_getElem? hit)

omit h hrun in
theorem toNat_le_65535 (a : Coord) : a.toNat ≤ 65535 := Nat.le_of_lt_succ a.isLt

/-- The lane that receives an item tracks it. -/
theorem laneTracks_dispatched {it : Item} (hit : nextItem? s = some it) (L : Lane) :
    LaneTracks s { L with dreg := itemWord it, st := .load } where
  load := fun _ => descWellFormed_itemWord (itemSound_of_nextItem h hrun hit) (toNat_le_65535 _) (toNat_le_65535 _)
  loadPass := by
    intro _ hkind x hlow hhigh
    have hsound := itemSound_of_nextItem h hrun hit
    have hpass : ¬it.conv = true := fun hconv => by
      rw [descKind_itemWord, if_pos hconv] at hkind
      cases hkind
    simp only [toNat_descX0_itemWord hsound (toNat_le_65535 _), toNat_descN_itemWord hsound (toNat_le_65535 _)]
      at hlow hhigh
    simp only [pixelFiltered, isFilter_iff, toNat_descY_itemWord hsound (toNat_le_65535 _)]
    exact fun hfiltered => hpass ((hsound.kind x hlow hhigh).2 hfiltered)
  kind := by rintro ⟨⟩
  pass := by rintro ⟨⟩
  conv := by rintro ⟨⟩

/-- What an item covers, the lane that receives it owes. -/
theorem laneOwes_dispatched {it : Item} (hit : nextItem? s = some it) (L : Lane) {x y : Nat}
    (hcov : itemCovers it x y) : laneOwes { L with dreg := itemWord it, st := .load } x y := by
  have hsound := itemSound_of_nextItem h hrun hit
  obtain ⟨hy, hlow, hhigh⟩ := hcov
  refine .inl ⟨rfl, ?_, ?_, ?_⟩
  · exact (toNat_descY_itemWord hsound (toNat_le_65535 _)).trans hy
  · exact (toNat_descX0_itemWord hsound (toNat_le_65535 _)).trans_le hlow
  · simp only [toNat_descX0_itemWord hsound (toNat_le_65535 _), toNat_descN_itemWord hsound (toNat_le_65535 _)]
    exact hhigh

theorem runGoesOn_of_dispatch {l : Nat} {L : Lane} {it : Item} (choice : Nat) (hready : dispatchReady s = true)
    (hit : nextItem? s = some it) (hL : s.lanes[l]? = some L) (hidle : L.st = .idle) :
    RunGoesOn { setLane (withWho s choice) l { L with dreg := itemWord it, st := .load } with
      sched := { s.sched with next := s.sched.next + 1 } } where
  sst := hrun
  tracks := by
    intro M hM
    have hsame : SameRun s { setLane (withWho s choice) l { L with dreg := itemWord it, st := .load } with
        sched := { s.sched with next := s.sched.next + 1 } } :=
      ⟨rfl, rfl, rfl, rfl, rfl, rfl, rfl, rfl, rfl, rfl⟩
    refine laneTracks_congr hsame ?_
    rcases List.mem_or_eq_of_mem_set hM with hM | rfl
    · exact h.tracks hrun M hM
    · exact laneTracks_dispatched h hrun hit L
  accounted := by
    intro x y hx hy
    have hlt := (List.getElem?_eq_some_iff.1 hL).1
    have hnext := toNat_add_one_of_lt ((dispatchReady_iff s).1 hready).2.1
    rcases h.accounted hrun x y hx hy with hdone | ⟨k, it', hk, hit', hcov⟩ | ⟨M, hM, howed⟩
    · exact .inl hdone
    · rcases Nat.eq_or_lt_of_le hk with rfl | hk
      · obtain rfl : it = it' := Option.some.inj (hit.symm.trans hit')
        exact .inr (.inr ⟨_, List.mem_set hlt _, laneOwes_dispatched h hrun hit L hcov⟩)
      · exact .inr (.inl ⟨k, it', by simp only [hnext]; omega, hit', hcov⟩)
    · rcases eq_or_mem_set (L' := { L with dreg := itemWord it, st := .load }) hL hM with rfl | hM
      · rcases howed with ⟨hst, -⟩ | ⟨hst, -⟩ <;> simp [hidle] at hst
      · exact .inr (.inr ⟨M, hM, howed⟩)

end

/-! ## The end of a run (R84, R137) -/

theorem sameRun_joined (s : State) : SameRun s (joined s) := ⟨rfl, rfl, rfl, rfl, rfl, rfl, rfl, rfl, rfl, rfl⟩

/-- JOIN leaves OMEM as the lanes have written it (R304). -/
theorem omemRead_joined {s : State} (hrun : s.sched.sst = .run) (i : Nat) : omemRead (joined s) i = omemRead s i := by
  have hmid : midRunFault (joined s) = false := midRunFault_of_ne_fault _ (by rintro ⟨⟩)
  have hmid' : midRunFault s = false := midRunFault_of_ne_fault s (by simp [hrun])
  exact omemRead_congr (hmid.trans hmid'.symm) rfl rfl i

/-- When JOIN is ready, no pixel is pending and no lane owes one, so every pixel is done. -/
theorem runResult_of_joinReady {s : State} (h : RunInv s) (hready : joinReady s = true) : RunResult (joined s) where
  idle := rfl
  done := rfl
  units := rfl
  pixels := by
    intro x y hx hy
    obtain ⟨hrun, hnext, -⟩ := (joinReady_iff s).1 hready
    have hidle := lanes_idle_of_joinReady h.machine hready
    have hlength := (h.machine.running hrun).length
    rcases h.accounted hrun x y hx hy with hdone | ⟨k, it, hk, hit, -⟩ | ⟨L, hL, howed⟩
    · exact pixelDone_congr (sameRun_joined s) (fun c => omemRead_joined hrun _) hdone
    · have hlt := (List.getElem?_eq_some_iff.1 hit).1
      rw [hnext] at hk
      omega
    · rcases howed with ⟨hst, -⟩ | ⟨hst, -⟩ <;> simp [hidle L hL] at hst

/-- An enabled step of a run continues it, or ends it with its result. -/
theorem goesOn_or_result_of_progress {s t : State} (h : RunInv s) (hrun : s.sched.sst = .run) (hp : Progress s t) :
    RunGoesOn t ∨ RunResult t := by
  cases hp with
  | dispatch choice hready hit hL hidle => exact .inl (runGoesOn_of_dispatch h hrun choice hready hit hL hidle)
  | lane hL hsame hwork => exact .inl (runGoesOn_of_lane h hrun hL hsame hwork)
  | join hready => exact .inr (runResult_of_joinReady h hready)

/-- Every step of a run but reset continues it, or ends it with its result. -/
theorem goesOn_or_result_of_step {s t : State} (h : RunInv s) (hrun : s.sched.sst = .run) (hstep : step s = .next t)
    (hno : s.env.agenda.head? ≠ some .reset) : RunGoesOn t ∨ RunResult t := by
  obtain ⟨e, h', -, -, hp | hq⟩ := progress_or_quiet_of_step h hrun hstep hno
  · exact goesOn_or_result_of_progress h' hrun hp
  · exact .inl (runGoesOn_of_quiet h' hrun hq)

/-- Settles O52. -/
theorem joinLeavesTheReferenceImage : Obligations.JoinLeavesTheReferenceImage := by
  intro s t h hrun hstep hidle hno
  rcases goesOn_or_result_of_step h hrun hstep hno with hgo | hresult
  · simp [hgo.sst] at hidle
  · exact hresult

/-! ## Every step keeps the invariant -/

/-- A reset at the head of the agenda is the step. -/
theorem step_of_reset {s t : State} (hreset : s.env.agenda.head? = some .reset) (hstep : step s = .next t) :
    t = applyReset (popped s s.env.agenda.tail) := by
  have hagenda : s.env.agenda = .reset :: s.env.agenda.tail := (List.cons_head?_tail hreset).symm
  rw [step_of_agenda hagenda, moveStep_reset] at hstep
  cases hstep
  rfl

/-- After a step of a run the machine runs on, or rests after JOIN or reset (R186). -/
theorem sst_ne_fault_of_run_step {s t : State} (h : RunInv s) (hrun : s.sched.sst = .run) (hstep : step s = .next t) :
    t.sched.sst ≠ .fault := by
  by_cases hreset : s.env.agenda.head? = some .reset
  · rw [step_of_reset hreset hstep]
    rintro ⟨⟩
  · rcases goesOn_or_result_of_step h hrun hstep hreset with hgo | hresult
    · simp [hgo.sst]
    · simp [hresult.idle]

/-- Settles O51. -/
theorem noFaultDuringARun : Obligations.NoFaultDuringARun := by
  intro s h hrun
  obtain ⟨t, hstep⟩ := theMachineNeverStops s h.machine
  exact ⟨t, hstep, sst_ne_fault_of_run_step h hrun hstep⟩

/-- Only the fetch takes moves off the agenda. -/
theorem agenda_of_stepEffect {s t : State} (h : StepEffect s (.next t)) : t.env.agenda = s.env.agenda := by
  have hdeliver {d : Descriptor} (h : DeliverEffect d s (.next t)) : t.env.agenda = s.env.agenda := by
    cases h <;> rfl
  cases h with
  | exec h =>
    cases h with
    | host r v h => cases h <;> rfl
    | dispatch hi h => exact hdeliver h
    | lane hi hact h => cases h <;> rfl
    | frozen => rfl
  | refused => rfl
  | deliver h => exact hdeliver h
  | illegal => rfl
  | join => rfl
  | nothing => rfl

/-- The agenda after any step is what was left of it. -/
theorem agenda_of_step {s t : State} (hstep : step s = .next t) : t.env.agenda = s.env.agenda.tail := by
  rcases step_cases s with ⟨ms, hms, hreset⟩ | ⟨e, hagenda, -, heffect⟩
  · cases hreset.symm.trans hstep
    rw [hms]
    rfl
  · rw [hstep] at heffect
    exact (agenda_of_stepEffect heffect).trans hagenda

/-- In IDLE no lane changes, and only an accepted START begins a run (R160). -/
theorem stepEffect_in_idle {s t : State} (h : StepEffect s (.next t)) (hs : s.sched.sst = .idle) :
    t.lanes = s.lanes ∧
      (t.sched.sst ≠ .run ∨ ∃ r v, startFault? s = none ∧ t = answered (startRun s) r v) := by
  have hrun : ¬s.sched.sst = .run := by simp [hs]
  have hdeliver {d : Descriptor} (h : DeliverEffect d s (.next t)) : t = s := by
    cases h with
    | given hready => exact absurd ((dispatchReady_iff s).1 hready).1 hrun
    | nothing => rfl
  cases h with
  | exec h =>
    cases h with
    | host r v h =>
      cases h with
      | same => exact ⟨rfl, .inl hrun⟩
      | registers => exact ⟨rfl, .inl hrun⟩
      | sample => exact ⟨rfl, .inl hrun⟩
      | drawn => exact ⟨rfl, .inl hrun⟩
      | fault code => exact ⟨rfl, .inl (by rintro ⟨⟩)⟩
      | start _ hfit => exact ⟨rfl, .inr ⟨r, v, hfit, rfl⟩⟩
    | dispatch hi h =>
      rw [hdeliver h]
      exact ⟨rfl, .inl hrun⟩
    | lane hi hact => exact absurd hact.1 hrun
    | frozen => exact ⟨rfl, .inl hrun⟩
  | refused => exact ⟨rfl, .inl hrun⟩
  | deliver h =>
    rw [hdeliver h]
    exact ⟨rfl, .inl hrun⟩
  | illegal h => exact absurd h hrun
  | join hready => exact absurd ((joinReady_iff s).1 hready).1 hrun
  | nothing => exact ⟨rfl, .inl hrun⟩

/-- Outside a run a machine with all lanes idle meets the invariant. -/
theorem runInv_of_idle_lanes {t : State} (hmachine : MachineInv t)
    (hspec : ∀ m ∈ t.env.agenda, moveBySpec m = true) (hidle : ∀ L ∈ t.lanes, L.st = .idle)
    (hrun : t.sched.sst ≠ .run) : RunInv t where
  machine := hmachine
  bySpec := hspec
  convLanes := fun L hL hst => by simp [hidle L hL] at hst
  tracks := fun h => absurd h hrun
  accounted := fun h => absurd h hrun

/-- An accepted START begins a run in which every pixel is pending (R90, R160). -/
theorem runGoesOn_startRun {s : State} (hidle : ∀ L ∈ s.lanes, L.st = .idle) (hfit : startFault? s = none) :
    RunGoesOn (startRun s) where
  sst := rfl
  tracks := fun L hL => laneTracks_of_idle (hidle L hL)
  accounted := by
    intro x y hx hy
    obtain ⟨hw, -, -⟩ := startFault_eq_none_iff.1 hfit
    obtain ⟨it, hit, hcov⟩ := exists_item_covers (apol := s.host.policy) (achunk := s.host.chunk.toNat)
      (toNat_pos_of_ne_zero hw) hx hy
    obtain ⟨k, hk⟩ := List.mem_iff_getElem?.1 hit
    exact .inr (.inl ⟨k, it, Nat.zero_le k, hk, hcov⟩)

theorem runInv_startRun {s : State} (h : RunInv s) (hs : s.sched.sst = .idle) (hfit : startFault? s = none) :
    RunInv (startRun s) :=
  runInv_of_goesOn (machineInv_startRun h.machine hs hfit) h.bySpec
    (runGoesOn_startRun (h.machine.restingMachine hs) hfit)

/-- In FAULT a step other than reset keeps the scheduler and the lanes, and with them R64 (e). -/
theorem runInv_of_fault_step {s t : State} (h : RunInv s) (hs : s.sched.sst = .fault) (hstep : step s = .next t)
    (hno : s.env.agenda.head? ≠ some .reset) (hmachine : MachineInv t)
    (hspec : ∀ m ∈ t.env.agenda, moveBySpec m = true) : RunInv t := by
  obtain ⟨hsched, -, hlanes, -⟩ := faultIsLeftByResetOnly s t hs hstep hno
  have hrun : ¬t.sched.sst = .run := by rw [hsched, hs]; simp
  refine ⟨hmachine, hspec, fun L hL hst hkind => ?_, fun h => absurd h hrun, fun h => absurd h hrun⟩
  rw [hlanes] at hL
  obtain ⟨hpol, hshape, hrows⟩ := h.convLanes L hL hst hkind
  rw [← hsched] at hpol hshape hrows
  exact ⟨hpol, hshape, hrows⟩

/-- Settles O50, by the state of the scheduler before the step. -/
theorem everyStepKeepsTheRunInvariant : Obligations.EveryStepKeepsTheRunInvariant := by
  intro s t h hstep
  have hmachine := everyStepKeepsTheMachineInvariant s t h.machine hstep
  have hspec : ∀ m ∈ t.env.agenda, moveBySpec m = true := by
    rw [agenda_of_step hstep]
    exact fun m hm => h.bySpec m (List.mem_of_mem_tail hm)
  by_cases hreset : s.env.agenda.head? = some .reset
  · rw [step_of_reset hreset hstep] at hspec ⊢
    exact runInv_resetWith h.machine.params hspec
  cases hs : s.sched.sst with
  | idle =>
    obtain ⟨e, hagenda, hepoch, heffect⟩ := stepEffect_of_step hstep hreset
    have hidle := h.machine.restingMachine hs
    obtain ⟨hlanes, hrun | ⟨r, v, hfit, rfl⟩⟩ := stepEffect_in_idle heffect hs
    · exact runInv_of_idle_lanes hmachine hspec (hlanes ▸ hidle) hrun
    · have h' : RunInv { s with env := e } := runInv_with_env h hepoch fun m hm =>
        h.bySpec m (List.mem_of_mem_tail (hagenda ▸ hm))
      exact runInv_with_env (runInv_startRun h' hs hfit) rfl hspec
  | run =>
    rcases goesOn_or_result_of_step h hs hstep hreset with hgo | hresult
    · exact runInv_of_goesOn hmachine hspec hgo
    · exact runInv_of_idle_lanes hmachine hspec (hmachine.restingMachine hresult.idle) (by simp [hresult.idle])
  | fault => exact runInv_of_fault_step h hs hstep hreset hmachine hspec

/-! ## Every step of a run left alone makes progress (R182, R186) -/

/-- In a run some step is enabled: a lane is busy, or an item waits for an idle lane, or all items are retired. -/
theorem enabledMoves_ne_nil {s : State} (h : RunInv s) (hrun : s.sched.sst = .run) : enabledMoves s ≠ [] := by
  intro hnil
  obtain ⟨hdispatch, hjoin, hidle⟩ := (enabledMoves_eq_nil hnil).resolve_left (not_not_intro hrun)
  have hshape := h.machine.running hrun
  have hflight := hshape.inFlight
  rw [(busyCount_eq_zero_iff s).2 hidle, Nat.zero_add] at hflight
  obtain ⟨hteam, hteam'⟩ := hshape.team
  have hlane : 0 < s.lanes.length := by
    rw [h.machine.laneCount]
    omega
  rw [← Bool.not_eq_true, dispatchReady_iff_exists] at hdispatch
  rw [← Bool.not_eq_true, joinReady_iff] at hjoin
  by_cases hnext : s.sched.next < s.sched.nitems
  · exact hdispatch ⟨hrun, hnext, 0, s.lanes[0], hteam, List.getElem?_eq_getElem hlane,
      hidle _ (List.getElem_mem hlane)⟩
  · have hcursors := hshape.cursors.2
    have hall : s.sched.next = s.sched.nitems := by bv_omega
    exact hjoin ⟨hrun, hall, (BitVec.eq_of_toNat_eq hflight).trans hall⟩

theorem progress_of_empty {s : State} (h : RunInv s) (hrun : s.sched.sst = .run) (hempty : s.env.agenda = []) :
    ∃ t, step s = .next t ∧ Progress (drawn s) t := by
  rcases step_of_empty hempty with ⟨hnil, -⟩ | ⟨m, hm, hmove⟩
  · exact absurd hnil (enabledMoves_ne_nil h hrun)
  · rw [hmove]
    exact progress_of_enabled (s := drawn s) (runInv_with_env h rfl h.bySpec) hrun (mem_enabledMoves hm).2

/-- A dispatched item takes as many lane steps as R182 counts for it. -/
theorem laneStepsLeft_dispatched {s : State} (h : RunInv s) (hrun : s.sched.sst = .run) {it : Item}
    (hit : nextItem? s = some it) (L : Lane) :
    laneStepsLeft { L with dreg := itemWord it, st := .load } = itemSteps it.conv it.n := by
  have hsound := itemSound_of_nextItem h hrun hit
  rw [laneStepsLeft_load rfl, toNat_descN_itemWord hsound (toNat_le_65535 _), descKind_itemWord]
  cases it.conv <;> rfl

/-- One enabled step takes exactly one step off the count, or is the last one. -/
theorem stepsLeft_of_progress {s t : State} (h : RunInv s) (hrun : s.sched.sst = .run) (hp : Progress s t) :
    (t.sched.sst = .run ∧ stepsLeft t + 1 = stepsLeft s) ∨ (t.sched.sst = .idle ∧ stepsLeft s = 1) := by
  cases hp with
  | @dispatch l L it choice hready hit hL hidle =>
    refine .inl ⟨hrun, ?_⟩
    have hlanes := sum_map_set_add laneStepsLeft { L with dreg := itemWord it, st := .load } hL
    rw [laneStepsLeft_dispatched h hrun hit, laneStepsLeft_idle hidle] at hlanes
    have hnext := toNat_add_one_of_lt ((dispatchReady_iff s).1 hready).2.1
    obtain ⟨hlt, hitem⟩ := List.getElem?_eq_some_iff.1 hit
    have hdrop := List.drop_eq_getElem_cons hlt
    simp only [stepsLeft, hdrop, List.map_cons, List.sum_cons, hitem, hnext]
    simp only [runItems, setLane_lanes, withWho_lanes]
    omega
  | @lane l L L' t hL hsame hwork =>
    refine .inl ⟨hwork.sst.trans hrun, ?_⟩
    have hlanes := sum_map_set_add laneStepsLeft L' hL
    have hsteps := hwork.steps
    have hset : t.lanes = s.lanes.set l L' := hwork.lanes
    have hnext : t.sched.next = s.sched.next := hwork.next
    simp only [stepsLeft, runItems_congr hsame, hnext, hset]
    omega
  | join hready =>
    refine .inr ⟨rfl, ?_⟩
    obtain ⟨-, hnext, -⟩ := (joinReady_iff s).1 hready
    have hlength := (h.machine.running hrun).length
    have hidle := lanes_idle_of_joinReady h.machine hready
    have hitems : (runItems s).drop s.sched.next.toNat = [] :=
      List.drop_eq_nil_of_le (by rw [hnext, hlength])
    have hlanes : (s.lanes.map laneStepsLeft).sum = 0 :=
      List.sum_eq_zero_iff.2 fun n hn => by
        obtain ⟨L, hL, rfl⟩ := List.mem_map.1 hn
        exact laneStepsLeft_idle (hidle L hL)
    rw [stepsLeft, hitems, hlanes]
    rfl

/-- Settles O53. -/
theorem everyStepOfARunMakesProgress : Obligations.EveryStepOfARunMakesProgress := by
  intro s h hrun hempty
  obtain ⟨t, hstep, hp⟩ := progress_of_empty h hrun hempty
  refine ⟨t, hstep, ?_, stepsLeft_of_progress (s := drawn s) (runInv_with_env h rfl h.bySpec) hrun hp⟩
  rw [agenda_of_step hstep, hempty]
  rfl

end Sys2Proof.Proofs
end

section
/-! The contract of a run (40_reference_function.md R137, R138 and R140; 42_scheduler.md R182): from an accepted START,
left alone, the machine reaches JOIN after the counted steps with the reference image, whatever the schedule. -/

open Sys2Proof Sys2Proof.Machine

namespace Sys2Proof.Proofs

/-! ## A run left alone -/

/-- A run whose first step answers a next state goes on from there. -/
theorem run_succ_of_step (M : Host.Core) {s t : M.State} (hstep : M.step s = .next t) (n : Nat) :
    M.run (n + 1) s = M.run n t := by
  simp only [Host.Core.run, hstep]

/-- One step of a run of the core. -/
theorem core_run_succ {s t : State} (hstep : step s = .next t) (n : Nat) :
    Host.Core.run core (n + 1) s = Host.Core.run core n t :=
  run_succ_of_step core hstep n

/-- What a run leaves behind, from the state `s` in which it was in progress: its result, and everything else as it
was (R137). -/
structure RunOutcome (s t : State) : Prop where
  result : RunResult t
  same : SameRun s t
  host : t.host = { s.host with done := true, units := t.sched.u }
  outside : ∀ i, 3 * (s.sched.aw.toNat * s.sched.ah.toNat) ≤ i → omemRead t i = omemRead s i

section
variable {s t : State} (hp : Progress s t)
include hp

theorem sameRun_of_progress : SameRun s t := by
  cases hp with
  | dispatch => exact ⟨rfl, rfl, rfl, rfl, rfl, rfl, rfl, rfl, rfl, rfl⟩
  | lane hL hsame hwork => exact hsame
  | join => exact sameRun_joined s

variable (hrun : s.sched.sst = .run)
include hrun

/-- The cells of OMEM past the image are no lane's (R139). -/
theorem omemRead_outside_of_progress {i : Nat} (hi : 3 * (s.sched.aw.toNat * s.sched.ah.toNat) ≤ i) :
    omemRead t i = omemRead s i := by
  cases hp with
  | dispatch => rfl
  | lane hL hsame hwork => exact hwork.outside i hi
  | join => exact omemRead_joined hrun i

/-- Only JOIN writes host registers (R137). -/
theorem host_of_progress :
    (t.sched.sst = .run → t.host = s.host) ∧
      (t.sched.sst = .idle → t.host = { s.host with done := true, units := t.sched.u }) := by
  cases hp with
  | dispatch => exact ⟨fun _ => rfl, fun hidle => by simp [hrun] at hidle⟩
  | lane hL hsame hwork =>
    have hsst : t.sched.sst = .run := hwork.sst.trans hrun
    exact ⟨fun _ => hwork.host, fun hidle => by simp [hsst] at hidle⟩
  | join => exact ⟨by rintro ⟨⟩, fun _ => rfl⟩

end

/-- Left alone, a run ends after the steps it has left, by induction on their number (R182, R186). -/
theorem exists_runOutcome : ∀ {n : Nat} {s : State}, RunInv s → s.sched.sst = .run → s.env.agenda = [] →
    stepsLeft s = n → ∃ t, Host.Core.run core n s = .next t ∧ RunOutcome s t
  | 0, s, _, _, _, hn => by simp [stepsLeft] at hn
  | n + 1, s, h, hrun, hempty, hn => by
    obtain ⟨t, hstep, hp⟩ := progress_of_empty h hrun hempty
    have hdrawn : SameRun s (drawn s) := ⟨rfl, rfl, rfl, rfl, rfl, rfl, rfl, rfl, rfl, rfl⟩
    have hsame := hdrawn.trans (sameRun_of_progress hp)
    have houtside {i : Nat} (hi : 3 * (s.sched.aw.toNat * s.sched.ah.toNat) ≤ i) : omemRead t i = omemRead s i :=
      omemRead_outside_of_progress hp hrun hi
    obtain ⟨hhost, hhost'⟩ := host_of_progress hp hrun
    have h' : RunInv (drawn s) := runInv_with_env h rfl h.bySpec
    rw [core_run_succ hstep]
    rcases stepsLeft_of_progress h' hrun hp with ⟨hrun', hsteps⟩ | ⟨hidle, hlast⟩
    · have hempty' : t.env.agenda = [] := by
        rw [agenda_of_step hstep, hempty]
        rfl
      have hn' : stepsLeft t = n := by
        have hcount : stepsLeft (drawn s) = stepsLeft s := rfl
        omega
      obtain ⟨u, hu, hout⟩ :=
        exists_runOutcome (everyStepKeepsTheRunInvariant s t h hstep) hrun' hempty' hn'
      refine ⟨u, hu, hout.result, hsame.trans hout.same, ?_, fun i hi => (hout.outside i ?_).trans (houtside hi)⟩
      · rw [hout.host, hhost hrun']
        rfl
      · rw [hsame.aw, hsame.ah]
        exact hi
    · obtain rfl : n = 0 := by
        have hcount : stepsLeft (drawn s) = stepsLeft s := rfl
        omega
      have hresult : RunResult t := by
        rcases goesOn_or_result_of_progress h' hrun hp with hgo | hresult
        · simp [hgo.sst] at hidle
        · exact hresult
      exact ⟨t, rfl, hresult, hsame, hhost' hidle, fun i hi => houtside hi⟩

/-! ## From START to JOIN -/

/-- The state after an accepted START with nothing else to come. -/
def started (s : State) : State := answered (startRun (popped s [])) .ok 0

section
variable {s : State} (h : RunInv s) (hidle : s.sched.sst = .idle)
  (hagenda : s.env.agenda = [.host 0x200000000000000001#72])
  (hfit : s.host.width ≠ 0 ∧ s.host.height ≠ 0 ∧ s.host.width.toNat * s.host.height.toNat ≤ s.cfg.memPixels)

include hidle hagenda hfit in
theorem step_start : step s = .next (started s) := by
  have hdecode : decode (.h 0x200000000000000001#72) = some .start := by decide
  rw [step_host_of_decode hagenda hdecode, exec_start]
  rw [startEffects_of_accepted (s := popped s []) hidle (startFault_eq_none_iff.2 hfit)]
  rfl

include h hidle in
/-- A run that has just begun takes the steps of R182. -/
theorem stepsLeft_started : stepsLeft (started s) =
    runSteps s.host.width.toNat s.host.height.toNat s.host.policy s.host.chunk.toNat := by
  have hlanes : ((started s).lanes.map laneStepsLeft).sum = 0 :=
    List.sum_eq_zero_iff.2 fun n hn => by
      obtain ⟨L, hL, rfl⟩ := List.mem_map.1 hn
      exact laneStepsLeft_idle (h.machine.restingMachine hidle L hL)
  rw [stepsLeft, hlanes]
  rfl

include hidle in
/-- START leaves OMEM as it was. -/
theorem omemRead_started (i : Nat) : omemRead (started s) i = omemRead s i := by
  have hmid : midRunFault (started s) = false := midRunFault_of_ne_fault _ (by rintro ⟨⟩)
  have hmid' : midRunFault s = false := midRunFault_of_ne_fault s (by simp [hidle])
  exact omemRead_congr (hmid.trans hmid'.symm) rfl rfl i

include h hidle hagenda hfit in
/-- An accepted START, left alone, ends after its counted steps. -/
theorem exists_runOutcome_of_start :
    ∃ t, Host.Core.run core
        (1 + runSteps s.host.width.toNat s.host.height.toNat s.host.policy s.host.chunk.toNat) s = .next t ∧
      RunOutcome (started s) t := by
  have hstep := step_start hidle hagenda hfit
  obtain ⟨t, ht, hout⟩ := exists_runOutcome (everyStepKeepsTheRunInvariant s _ h hstep) rfl rfl
    (stepsLeft_started h hidle)
  exact ⟨t, by rw [Nat.add_comm, core_run_succ hstep, ht], hout⟩

end

/-- The reference image in OMEM, in terms of the state before START. -/
theorem pixels_of_runOutcome {s t : State} (hout : RunOutcome (started s) t) {x y : Nat}
    (hx : x < s.host.width.toNat) (hy : y < s.host.height.toNat) (c : Fin 3) :
    (omemRead t (3 * (y * s.host.width.toNat + x) + c.val)).toNat =
      refApply s.cfg.magRound s.host.width.toNat s.host.height.toNat s.host.policy
        (imageAt s s.host.width.toNat) x y c := by
  have haw : t.sched.aw = s.host.width := hout.same.aw
  have hah : t.sched.ah = s.host.height := hout.same.ah
  have hapol : t.sched.apol = s.host.policy := hout.same.apol
  have hcfg : t.cfg = s.cfg := hout.same.cfg
  have himage : imageAt t = imageAt s := (imageAt_congr hout.same).trans rfl
  have hdone := hout.result.pixels x y (by rw [haw]; exact hx) (by rw [hah]; exact hy) c
  rwa [haw, hah, hapol, hcfg, himage] at hdone

/-- Settles O54: START, and then the run left alone. -/
theorem acceptedStartRunsToTheReferenceImage : Obligations.AcceptedStartRunsToTheReferenceImage := by
  intro s h hidle hagenda hw hh hfits
  obtain ⟨t, ht, hout⟩ := exists_runOutcome_of_start h hidle hagenda ⟨hw, hh, hfits⟩
  refine ⟨t, ht, hout.result.idle, hout.result.done, hout.result.units,
    fun x y hx hy c => pixels_of_runOutcome hout hx hy c,
    fun i hi => (hout.outside i hi).trans (omemRead_started hidle i), hout.same.imem, ?_⟩
  rw [hout.host, ← not_isFilter_eq_decide]
  rfl

/-! ## Two runs on the same image (R138, R140) -/

/-- The reference function reads the image inside its shape only. -/
theorem refApply_congr {m : MagRound} {w h : Nat} {policy : Word} {I J : Nat → Nat → Fin 3 → Nat} {c : Fin 3}
    (hIJ : ∀ x y, x < w → y < h → I x y c = J x y c) {x y : Nat} (hx : x < w) (hy : y < h) :
    refApply m w h policy I x y c = refApply m w h policy J x y c := by
  cases hi : interior w h x y with
  | false => rw [refApply_of_not_interior m I c policy hi, refApply_of_not_interior m J c policy hi, hIJ x y hx hy]
  | true =>
    obtain ⟨hx₀, hx₁, hy₀, hy₁⟩ := (interior_iff x).1 hi
    simp (disch := omega) only [refApply, refAvg, refSum, refSob, refGx, refGy, hIJ]

/-- A sample index of the image is a pixel and a channel (R72). -/
theorem exists_pixel_of_index {w h i : Nat} (hi : i < 3 * (w * h)) :
    ∃ (x y : Nat) (c : Fin 3), x < w ∧ y < h ∧ i = 3 * (y * w + x) + c.val := by
  have hpixel : i / 3 < w * h := by omega
  have hw : 0 < w := Nat.pos_of_ne_zero fun hzero => by simp [hzero] at hpixel
  refine ⟨i / 3 % w, i / 3 / w, ⟨i % 3, Nat.mod_lt i (by decide)⟩, Nat.mod_lt _ hw,
    Nat.div_lt_of_lt_mul hpixel, ?_⟩
  rw [Nat.div_add_mod' (i / 3) w, Nat.div_add_mod i 3]

/-- Settles O55: both runs leave the reference image, and the two images agree inside the shape. -/
theorem sequentialAndParallelRunsAgree : Obligations.SequentialAndParallelRunsAgree := by
  intro s s' h h' hidle hidle' hagenda hagenda' hw hh hfits hfits' hwidth hheight hpolicy hmag himem
  obtain ⟨t, ht, hout⟩ := exists_runOutcome_of_start h hidle hagenda ⟨hw, hh, hfits⟩
  obtain ⟨t', ht', hout'⟩ := exists_runOutcome_of_start h' hidle' hagenda'
    (by rw [hwidth, hheight]; exact ⟨hw, hh, hfits'⟩)
  rw [hwidth, hheight, hpolicy] at ht'
  refine ⟨t, t', ht, ht', hout.result.done, hout'.result.done, fun i hi => BitVec.eq_of_toNat_eq ?_⟩
  obtain ⟨x, y, c, hx, hy, rfl⟩ := exists_pixel_of_index hi
  have hpixel' := pixels_of_runOutcome hout' (hwidth ▸ hx) (hheight ▸ hy) c
  rw [hwidth, hheight, hpolicy, hmag] at hpixel'
  rw [hpixel', pixels_of_runOutcome hout hx hy c]
  refine refApply_congr (fun x y hx hy => ?_) hx hy
  have hnumber := pixelNumber_lt _ _ _ _ _ hx hy le_rfl
  exact congrArg BitVec.toNat (himem _ (by omega))

end Sys2Proof.Proofs
end
